-- ==== Sys2Proof/Word.lean ====
section
/-! DEFINITION. The widths of the machine's values (00_scope.md R6, R9, R11): bytes, 32-bit words,
64-bit words, physical addresses of 32 bits. -/

namespace Sys2Proof

/-- One byte of the Interconnect's fixed map. -/
abbrev Byte := BitVec 8

/-- A 32-bit value: an instruction word, a bus word, a CP0 encoding (R6). -/
abbrev Word32 := BitVec 32

/-- A 64-bit value: a GPR, the pc, a virtual address (R6). -/
abbrev Word64 := BitVec 64

/-- A physical address as the Interconnect takes it: 32 bits (R6, R60). -/
abbrev PAddr := BitVec 32

end Sys2Proof
end

