-- ==== Sys2Proof/Syntax.lean ====
section
/-! DEFINITION. The instructions: one constructor per row of spec/opcode_table.json. -/

namespace Sys2Proof

/-- A GPR number, from a 5-bit field: always 0..31 (30_encoding.md R97). -/
abbrev GprIdx := Fin 32

/-- A CP0 register index, 0..31 (10_state.md R31). -/
abbrev Cp0Idx := Fin 32

/-- The four instructions (00_scope.md R1). The bits a handler ignores (30_encoding.md R100) are kept
as fields: no meaning reads them, but a fault reports the whole fetched word (60_exceptions.md R170),
and an instruction then has exactly one word (log entry 8). -/
inductive Instr where
  /-- `ori $rt, $rs, imm` (41_immediate_alu.md R130). -/
  | ori (rs rt : GprIdx) (imm : BitVec 16)
  /-- `lui $rt, imm`; `rsIgnored` is bits 25:21 (R131). -/
  | lui (rsIgnored : BitVec 5) (rt : GprIdx) (imm : BitVec 16)
  /-- `mtc0 $rt, $rd`; `subIgnored` is bits 25:21 and `lowIgnored` bits 10:0 (42_cop0_move.md R140). -/
  | mtc0 (subIgnored : BitVec 5) (rt : GprIdx) (rd : Cp0Idx) (lowIgnored : BitVec 11)
  /-- `lw $rt, imm($rs)` (43_load.md R150). -/
  | lw (rs rt : GprIdx) (imm : BitVec 16)
  deriving DecidableEq, Repr

end Sys2Proof
end

