-- ==== Sys2Proof/WellFormed.lean ====
section
/-! DEFINITION. Well-formedness of what the decoder is built on.
An `Instr` carries its bounds in its types (every 5-bit value is a valid index, 30_encoding.md R97,
and no word with a modelled opcode is rejected for an ignored field, R100), so every instruction is
well formed. What can be ill formed is a row of the opcode table (R104): the checks are on rows and
on the table. -/

namespace Sys2Proof

/-- Every instruction is well formed: R97 and R100 leave no check, the types hold the bounds. -/
def Instr.wellFormed : Instr → Bool
  | .ori _ _ _ => true
  | .lui _ _ _ => true
  | .mtc0 _ _ _ _ => true
  | .lw _ _ _ => true

/-- A row of the machine-readable table (R104): `w` selects it exactly when `w & mask = matchBits`. -/
structure TableRow where
  mnemonic : String
  matchBits : Word32
  mask : Word32
  deriving DecidableEq, Repr

/-- The mask covers the opcode field and nothing else (R98: no secondary key is consulted). -/
def TableRow.maskIsOpcode (r : TableRow) : Bool := r.mask == 0xFC000000#32

/-- The match has no bit outside the mask; otherwise no word would select the row. -/
def TableRow.matchInsideMask (r : TableRow) : Bool := r.matchBits &&& r.mask == r.matchBits

def TableRow.wellFormed (r : TableRow) : Bool := r.maskIsOpcode && r.matchInsideMask

/-- Whether a word selects the row (R104). -/
def TableRow.selects (r : TableRow) (w : Word32) : Bool := w &&& r.mask == r.matchBits

/-- At most one row of the table matches any word (R104): the matches of two rows of one mask
differ. -/
def tableDisjoint : List TableRow → Bool
  | [] => true
  | r :: rest => rest.all (fun q => q.mask == r.mask && q.matchBits != r.matchBits) && tableDisjoint rest

def tableWellFormed (t : List TableRow) : Bool := t.all TableRow.wellFormed && tableDisjoint t

end Sys2Proof
end

