-- ==== Sys2Proof/Decode.lean ====
section
/-! DEFINITION. Decoding and encoding (30_encoding.md). Decoding is total on 32-bit words (R103); the
word is the one the engine has after `Order` (R90). -/

namespace Sys2Proof

/-- The one way a word is rejected (R99): `UnrecognizedInstruction`. The step adds the pc (R112). -/
inductive DecodeReject where
  | unrecognizedInstruction (word : Word32)
  deriving DecidableEq, Repr

/-- `opcode`, bits 31:26 (R91). -/
def opcodeField (w : Word32) : BitVec 6 := w.extractLsb' 26 6

/-- Bits 25:21 as they stand: `rs`, or the ignored field of LUI and MTC0 (R91, R93). -/
def bits25to21 (w : Word32) : BitVec 5 := w.extractLsb' 21 5

/-- `rs`, bits 25:21 (R91). -/
def rsField (w : Word32) : GprIdx := (bits25to21 w).toFin

/-- `rt`, bits 20:16 (R91). -/
def rtField (w : Word32) : GprIdx := (w.extractLsb' 16 5).toFin

/-- `rd`, bits 15:11 (R91). -/
def rdField (w : Word32) : Cp0Idx := (w.extractLsb' 11 5).toFin

/-- `imm`, bits 15:0 (R91). -/
def immField (w : Word32) : BitVec 16 := w.extractLsb' 0 16

/-- Bits 10:0, ignored by MTC0 (R93). -/
def low11Field (w : Word32) : BitVec 11 := w.extractLsb' 0 11

def opcodeOri : BitVec 6 := 0b001101#6
def opcodeLui : BitVec 6 := 0b001111#6
def opcodeMtc0 : BitVec 6 := 0b010000#6
def opcodeLw : BitVec 6 := 0b100011#6

/-- Dispatch (R98): the primary opcode alone selects the instruction; every other value is rejected
by name (R99). -/
def decode (w : Word32) : Except DecodeReject Instr :=
  if opcodeField w = opcodeOri then .ok (.ori (rsField w) (rtField w) (immField w))
  else if opcodeField w = opcodeLui then .ok (.lui (bits25to21 w) (rtField w) (immField w))
  else if opcodeField w = opcodeMtc0 then
    .ok (.mtc0 (bits25to21 w) (rtField w) (rdField w) (low11Field w))
  else if opcodeField w = opcodeLw then .ok (.lw (rsField w) (rtField w) (immField w))
  else .error (.unrecognizedInstruction w)

/-- A register number as its 5-bit field. -/
def regBits (r : Fin 32) : BitVec 5 := BitVec.ofFin r

/-- The I-type format (R92). -/
def iType (opcode : BitVec 6) (rs rt : BitVec 5) (imm : BitVec 16) : Word32 :=
  opcode ++ rs ++ rt ++ imm

/-- The COP0 move format (R93). -/
def cop0Type (opcode : BitVec 6) (sub rt rd : BitVec 5) (low : BitVec 11) : Word32 :=
  opcode ++ sub ++ rt ++ rd ++ low

/-- The word of an instruction (R92, R93). -/
def encode : Instr → Word32
  | .ori rs rt imm => iType opcodeOri (regBits rs) (regBits rt) imm
  | .lui rs rt imm => iType opcodeLui rs (regBits rt) imm
  | .mtc0 sub rt rd low => cop0Type opcodeMtc0 sub (regBits rt) (regBits rd) low
  | .lw rs rt imm => iType opcodeLw (regBits rs) (regBits rt) imm

/-- The rows of spec/opcode_table.json (R104). -/
def opcodeTable : List TableRow :=
  [ ⟨"ORI", 0x34000000#32, 0xFC000000#32⟩,
    ⟨"LUI", 0x3C000000#32, 0xFC000000#32⟩,
    ⟨"MTC0", 0x40000000#32, 0xFC000000#32⟩,
    ⟨"LW", 0x8C000000#32, 0xFC000000#32⟩ ]

/-- The instruction's mnemonic in spec/opcode_table.json. -/
def Instr.mnemonic : Instr → String
  | .ori _ _ _ => "ORI"
  | .lui _ _ _ => "LUI"
  | .mtc0 _ _ _ _ => "MTC0"
  | .lw _ _ _ => "LW"

/-- The instruction read from bits numbered as the opcode table numbers them. The hardware stores an
instruction as one 32-bit word (R90), whose bit 0 is the table's bit 0, so the word is the number
itself; bits above `nbits` are 0. More than 32 bits is no instruction of this machine (R90). -/
def decodeTableWord (nbits w : Nat) : Option Instr :=
  if nbits ≤ 32 then (decode (BitVec.ofNat 32 (w % 2 ^ nbits))).toOption else none

end Sys2Proof
end

