-- ==== Sys2Proof/Config.lean ====
section
/-! DEFINITION. The parameters a model takes (00_scope.md R7) and the one value that no rule fixes,
the Interconnect's failure value for an unbacked address (60_exceptions.md R173).
`P_BUS` is plain data of the state (Machine/State.lean, `Bus`). -/

namespace Sys2Proof

/-- The values of `P_WORD_ORDER` (20_memory.md R63). -/
inductive WordOrder where
  | asReturned
  | byteSwapped
  deriving DecidableEq, Repr

/-- The open parameters other than the bus (R7). They stand in the state as plain data, so every
statement over all states holds for all their values; no operation changes them. -/
structure Params where
  /-- `P_WORD_ORDER`, R63, OPEN. -/
  wordOrder : WordOrder
  /-- `P_RESET_K0CE`, 10_state.md R36, OPEN. -/
  resetK0ce : Bool
  deriving DecidableEq, Repr

/-- The failure value a collaborator returns with a failed read. The core adds no interpretation to
it (R173, decision D22), so it is only a label. -/
structure BusFailure where
  code : Nat
  deriving DecidableEq, Repr, Inhabited

/-- Free value (log entry 10): the failure value the Interconnect gives when the fixed map does not
back the address. The spec leaves it opaque (R173), so it has no body. -/
opaque Config.unbackedFailure : PAddr → BusFailure

end Sys2Proof
end

