-- ==== Sys2Proof/Machine/Cop0.lean ====
section
/-! DEFINITION. The CP0 bank in structured form (10_state.md section 5): Config (R32) and Status
(R38 to R42). The maps to and from the 32-bit encodings are in Machine/Flags.lean. -/

namespace Sys2Proof.Machine

/-- Config bits 27:24 (R33). -/
inductive DataTransferPattern where
  | normal
  | dxxdxx
  deriving DecidableEq, Repr

/-- Config bit 15 (R34). -/
inductive Endianness where
  | little
  | big
  deriving DecidableEq, Repr

/-- Config holds exactly these four fields (R32). -/
structure ConfigReg where
  dataTransferPattern : DataTransferPattern
  endianness : Endianness
  cu : Bool
  kseg0CacheEnabled : Bool
  deriving DecidableEq, Repr

/-- Status bit 22 (R40). -/
inductive ExceptionVectorLocation where
  | normal
  | bootstrap
  deriving DecidableEq, Repr

/-- Status privilege mode, bits 4:3 (R42). -/
inductive Ksu where
  | kernel
  | supervisor
  | user
  deriving DecidableEq, Repr

/-- The diagnostic-status sub-fields (R40). -/
structure DiagnosticStatus where
  instructionTraceSupport : Bool
  exceptionVectorLocation : ExceptionVectorLocation
  tlbShutdown : Bool
  softResetOrNmiOccurred : Bool
  conditionBit : Bool
  deriving DecidableEq, Repr

/-- The interrupt-mask sub-fields (R41). -/
structure InterruptMask where
  timerInterrupt : Bool
  externalInterruptWriteReq : Vector Bool 5
  softwareInterruptCause : Vector Bool 2
  deriving DecidableEq, Repr

/-- Status (R38 to R42). `cu` index 0 is bit 31 (R38, 90_conflicts.md C4). -/
structure StatusReg where
  cu : Vector Bool 4
  lowPower : Bool
  additionalFpRegisters : Bool
  reverseEndian : Bool
  ds : DiagnosticStatus
  im : InterruptMask
  kernel64bitAddressing : Bool
  supervisor64bitAddressing : Bool
  user64bitAddressing : Bool
  ksu : Ksu
  errorLevel : Bool
  exceptionLevel : Bool
  globalInterruptEnable : Bool
  deriving DecidableEq, Repr

/-- The CP0 bank: Config and Status; every other index holds no state (R31). -/
structure Cp0 where
  config : ConfigReg
  status : StatusReg
  deriving DecidableEq, Repr

/-- The register a `DecodeError` names (60_exceptions.md R170). -/
inductive Cp0RegName where
  | status
  | config
  deriving DecidableEq, Repr

/-- The field a `DecodeError` names (60_exceptions.md R170). -/
inductive Cp0FieldName where
  | ksu
  | dataTransferPattern
  deriving DecidableEq, Repr

/-- What a failed CP0 decode reports: a tagged error with the raw value and the field (R171). -/
structure Cp0DecodeError where
  register : Cp0RegName
  field : Cp0FieldName
  raw : Word32
  deriving DecidableEq, Repr

end Sys2Proof.Machine
end

