-- ==== Sys2Proof/Machine/Flags.lean ====
section
/-! DEFINITION. The flag and bit-field maps. The core has no condition flags and no instruction sets
one (10_state.md R52); its only flags are the stored bits of Config and Status, and this file gives
their decode (R33 to R43) and encode (R44, R45), and the bank's write (R46, R47). -/

namespace Sys2Proof.Machine

/-- Config `data_transfer_pattern` (R33). -/
def decodeDataTransferPattern (f : BitVec 4) : Option DataTransferPattern :=
  if f = 0#4 then some .normal
  else if f = 6#4 then some .dxxdxx
  else none

/-- Config decode (R37): it fails exactly when R33 does. -/
def decodeConfig (w : Word32) : Except Cp0DecodeError ConfigReg :=
  match decodeDataTransferPattern (w.extractLsb' 24 4) with
  | none => .error ⟨.config, .dataTransferPattern, w⟩
  | some p =>
    .ok
      { dataTransferPattern := p
        endianness := if w.getLsbD 15 then .big else .little
        cu := w.getLsbD 3
        kseg0CacheEnabled := w.extractLsb' 0 3 != 0b010#3 }

/-- Status `ksu` (R42). -/
def decodeKsu (m : BitVec 2) : Option Ksu :=
  if m = 0b00#2 then some .kernel
  else if m = 0b01#2 then some .supervisor
  else if m = 0b10#2 then some .user
  else none

/-- The diagnostic-status bits (R40). -/
def decodeDiagnosticStatus (w : Word32) : DiagnosticStatus :=
  { instructionTraceSupport := w.getLsbD 24
    exceptionVectorLocation := if w.getLsbD 22 then .bootstrap else .normal
    tlbShutdown := w.getLsbD 21
    softResetOrNmiOccurred := w.getLsbD 20
    conditionBit := w.getLsbD 18 }

/-- The interrupt-mask bits (R41). -/
def decodeInterruptMask (w : Word32) : InterruptMask :=
  { timerInterrupt := w.getLsbD 15
    externalInterruptWriteReq :=
      #v[w.getLsbD 10, w.getLsbD 11, w.getLsbD 12, w.getLsbD 13, w.getLsbD 14]
    softwareInterruptCause := #v[w.getLsbD 8, w.getLsbD 9] }

/-- Status decode (R43): it fails exactly when R42 does. -/
def decodeStatus (w : Word32) : Except Cp0DecodeError StatusReg :=
  match decodeKsu (w.extractLsb' 3 2) with
  | none => .error ⟨.status, .ksu, w⟩
  | some m =>
    .ok
      { cu := #v[w.getLsbD 31, w.getLsbD 30, w.getLsbD 29, w.getLsbD 28]
        lowPower := w.getLsbD 27
        additionalFpRegisters := w.getLsbD 26
        reverseEndian := w.getLsbD 25
        ds := decodeDiagnosticStatus w
        im := decodeInterruptMask w
        kernel64bitAddressing := w.getLsbD 7
        supervisor64bitAddressing := w.getLsbD 6
        user64bitAddressing := w.getLsbD 5
        ksu := m
        errorLevel := w.getLsbD 2
        exceptionLevel := w.getLsbD 1
        globalInterruptEnable := w.getLsbD 0 }

/-- The word with `b` at bit `k` and 0 elsewhere. -/
def bitAt (k : Nat) (b : Bool) : Word32 := if b then 1#32 <<< k else 0#32

/-- Config encode (R44, decision D13). -/
def encodeConfig (c : ConfigReg) : Word32 :=
  (match c.dataTransferPattern with
    | .normal => 0#32
    | .dxxdxx => 6#32 <<< 24)
  ||| bitAt 15 (c.endianness == .big)
  ||| bitAt 3 c.cu
  ||| (if c.kseg0CacheEnabled then 0b011#32 else 0b010#32)

/-- The two bits of `ksu` in place (R45). -/
def encodeKsu : Ksu → Word32
  | .kernel => 0b00#32 <<< 3
  | .supervisor => 0b01#32 <<< 3
  | .user => 0b10#32 <<< 3

/-- The diagnostic-status bits in place (R40, R45). -/
def encodeDiagnosticStatus (d : DiagnosticStatus) : Word32 :=
  bitAt 24 d.instructionTraceSupport ||| bitAt 22 (d.exceptionVectorLocation == .bootstrap)
  ||| bitAt 21 d.tlbShutdown ||| bitAt 20 d.softResetOrNmiOccurred ||| bitAt 18 d.conditionBit

/-- The interrupt-mask bits in place (R41, R45). -/
def encodeInterruptMask (m : InterruptMask) : Word32 :=
  bitAt 15 m.timerInterrupt
  ||| bitAt 10 m.externalInterruptWriteReq[0] ||| bitAt 11 m.externalInterruptWriteReq[1]
  ||| bitAt 12 m.externalInterruptWriteReq[2] ||| bitAt 13 m.externalInterruptWriteReq[3]
  ||| bitAt 14 m.externalInterruptWriteReq[4]
  ||| bitAt 8 m.softwareInterruptCause[0] ||| bitAt 9 m.softwareInterruptCause[1]

/-- Status encode (R45): every named field at its bit, 0 in bits 23, 19, 17 and 16. -/
def encodeStatus (s : StatusReg) : Word32 :=
  bitAt 31 s.cu[0] ||| bitAt 30 s.cu[1] ||| bitAt 29 s.cu[2] ||| bitAt 28 s.cu[3]
  ||| bitAt 27 s.lowPower ||| bitAt 26 s.additionalFpRegisters ||| bitAt 25 s.reverseEndian
  ||| encodeDiagnosticStatus s.ds ||| encodeInterruptMask s.im
  ||| bitAt 7 s.kernel64bitAddressing ||| bitAt 6 s.supervisor64bitAddressing
  ||| bitAt 5 s.user64bitAddressing ||| encodeKsu s.ksu
  ||| bitAt 2 s.errorLevel ||| bitAt 1 s.exceptionLevel ||| bitAt 0 s.globalInterruptEnable

/-- The CP0 index of Status (R31, decision D1). -/
def statusIndex : Cp0Idx := 12

/-- The CP0 index of Config (R31, decision D1). -/
def configIndex : Cp0Idx := 16

/-- `write_reg` (R46): a write replaces every field of the register; an unmodelled index is accepted
and ignored (R47); a failed decode writes nothing. -/
def writeReg (c : Cp0) (index : Cp0Idx) (data : Word32) : Except Cp0DecodeError Cp0 :=
  if index = statusIndex then (decodeStatus data).map (fun st => { c with status := st })
  else if index = configIndex then (decodeConfig data).map (fun cf => { c with config := cf })
  else .ok c

end Sys2Proof.Machine
end

