-- ==== Sys2Proof/Machine/Memory.lean ====
section
/-! DEFINITION. The Interconnect's fixed map (20_memory.md R62: a fixed map is one admissible oracle),
as a sparse list of bytes in one canonical form. An unlisted address has no value: it is unbacked
(R60). The core never writes it (R70); the host and the other bus agents do. -/

namespace Sys2Proof.Machine

/-- Listed bytes by physical address. -/
abbrev Memory := List Host.Cell

/-- The canonical form: addresses strictly rising, each a 32-bit address. (What an unlisted address
reads as is no value, so no entry can equal it.) -/
abbrev Memory.wf (m : Memory) : Prop :=
  m.Pairwise (fun c d => c.1 < d.1) ∧ ∀ c ∈ m, c.1 < 0x100000000

/-- The byte listed at an address; `none` where nothing backs it. -/
def Memory.read : Memory → Nat → Option Byte
  | [], _ => none
  | (a, v) :: m, x => if a = x then some v else Memory.read m x

/-- List a byte at an address, in place. -/
def Memory.write : Memory → Nat → Byte → Memory
  | [], x, v => [(x, v)]
  | (a, w) :: m, x, v =>
    if x < a then (x, v) :: (a, w) :: m
    else if a = x then (x, v) :: m
    else (a, w) :: Memory.write m x v

/-- Make an address unbacked. -/
def Memory.erase : Memory → Nat → Memory
  | [], _ => []
  | (a, w) :: m, x => if a = x then Memory.erase m x else (a, w) :: Memory.erase m x

/-- The word the map answers at `pa`: bytes `pa` to `pa + 3`, the first in the high bits; `none`
where one of them is unbacked. Which byte stands where is the Interconnect's convention (R72): every
other convention is this one over permuted bytes (log entry 3). -/
def Memory.readWord (m : Memory) (pa : PAddr) : Option Word32 :=
  match m.read pa.toNat, m.read (pa.toNat + 1), m.read (pa.toNat + 2), m.read (pa.toNat + 3) with
  | some b0, some b1, some b2, some b3 => some (b0 ++ b1 ++ b2 ++ b3)
  | _, _, _, _ => none

/-- Byte `k` of a word in the map's order. -/
def mapByte (w : Word32) (k : Nat) : Byte := w.extractLsb' (8 * (3 - k)) 8

/-- List a word at `pa` in the map's order. -/
def Memory.writeWord (m : Memory) (pa : PAddr) (w : Word32) : Memory :=
  (((m.write pa.toNat (mapByte w 0)).write (pa.toNat + 1) (mapByte w 1)).write
    (pa.toNat + 2) (mapByte w 2)).write (pa.toNat + 3) (mapByte w 3)

end Sys2Proof.Machine
end

