-- ==== Sys2Proof/Machine/ResetValues.lean ====
section
/-! DEFINITION. The values of creation (10_state.md R51) and of power-on reset
(70_reset_and_hazards.md R201), each named once, and the parameter values the host's `State.reset`
takes. -/

namespace Sys2Proof.Machine

/-- The boot vector (R202, the spec's decision D2; log entry 7). -/
def bootVector : Word64 := 0xFFFFFFFFBFC00000#64

/-- Config at creation (R51). -/
def configCreation (k0ce : Bool) : ConfigReg :=
  { dataTransferPattern := .normal, endianness := .little, cu := false, kseg0CacheEnabled := k0ce }

/-- Config after reset (R201, R37). -/
def configReset (k0ce : Bool) : ConfigReg :=
  { dataTransferPattern := .normal, endianness := .big, cu := false, kseg0CacheEnabled := k0ce }

/-- Status at creation and after reset: every boolean false, `Normal`, `Kernel` (R43, decision D3). -/
def statusReset : StatusReg :=
  { cu := #v[false, false, false, false]
    lowPower := false
    additionalFpRegisters := false
    reverseEndian := false
    ds :=
      { instructionTraceSupport := false
        exceptionVectorLocation := .normal
        tlbShutdown := false
        softResetOrNmiOccurred := false
        conditionBit := false }
    im :=
      { timerInterrupt := false
        externalInterruptWriteReq := #v[false, false, false, false, false]
        softwareInterruptCause := #v[false, false] }
    kernel64bitAddressing := false
    supervisor64bitAddressing := false
    user64bitAddressing := false
    ksu := .kernel
    errorLevel := false
    exceptionLevel := false
    globalInterruptEnable := false }

/-- DESIGN CHOICE, unsafe for a claim about `State.reset` alone (log entries 4 and 5): the parameter
values of the host's `State.reset`. The spec leaves both open; `AsReturned` is the value its test
vectors take (92_eei_decisions.md, table of parameters). -/
def defaultParams : Params := { wordOrder := .asReturned, resetK0ce := false }

end Sys2Proof.Machine
end

