-- ==== Sys2Proof/Machine/State.lean ====
section
/-! DEFINITION. The state: the CPU's aggregate (10_state.md R20), the external Interconnect and the
open parameters, all plain data; the faults (60_exceptions.md R170); the state after reset. -/

namespace Sys2Proof.Machine

/-- The CPU state: exactly the components of R20. -/
structure Cpu where
  /-- R21. The cell of index 0 is read by nobody (R24). -/
  gpr : Vector Word64 32
  /-- R27. -/
  pc : Word64
  /-- R28: 64-bit binary64 patterns. -/
  fpr : Vector Word64 32
  /-- R28. -/
  fcr0 : Word32
  /-- R28. -/
  fcr31 : Word32
  /-- R29. -/
  hi : Word64
  /-- R29. -/
  lo : Word64
  /-- R30. -/
  llbit : Bool
  /-- R31. -/
  cp0 : Cp0
  deriving DecidableEq, Repr

/-- One answer of the Interconnect to `read_word` (20_memory.md R60): a word, or a failure value. -/
inductive BusAnswer where
  | word (w : Word32)
  | failure (f : BusFailure)
  deriving DecidableEq, Repr

/-- The Interconnect, `P_BUS` (00_scope.md R7). It is not the CPU's state (R20): it is the outside,
held here as plain data (log entry 1). `answers` are its answers to the next reads, whatever the
address, oldest first; when none is left the fixed map `mem` answers. Every finite sequence of
answers is some `answers`, so a statement over all states holds for every oracle (R62). -/
structure Bus where
  mem : Memory
  answers : List BusAnswer
  /-- The addresses asked so far, newest first (R75, R77). Nothing reads it. -/
  reads : List PAddr
  deriving DecidableEq, Repr

/-- The whole machine. -/
structure State where
  cpu : Cpu
  bus : Bus
  params : Params
  deriving DecidableEq, Repr

/-- The five fault kinds and their payloads (60_exceptions.md R170). Each stops the machine for good
(R176). `word` is the instruction word in a fault of LW and `none` in a fault of the fetch. -/
inductive Fault where
  /-- Tag 1. Raised by `step` when decoding rejects the fetched word (R175). Safe: the spec's fault. -/
  | unrecognizedInstruction (word : Word32) (pc : Word64)
  /-- Tag 2. Raised by `execMtc0` (42_cop0_move.md R140). Safe: the spec's fault. -/
  | decodeError (register : Cp0RegName) (field : Cp0FieldName) (raw : Word32) (index : Cp0Idx)
      (word : Word32) (pc : Word64)
  /-- Tag 3. Raised by the fetch and by `execLw` (R172). Safe: the spec's fault. -/
  | translationFault (va : Word64) (pc : Word64) (word : Option Word32)
  /-- Tag 4. Raised by the fetch and by `execLw` (R173), with the collaborator's failure value.
  Safe: the spec's fault. -/
  | busFault (pa : PAddr) (pc : Word64) (word : Option Word32) (failure : BusFailure)
  /-- Tag 5. Raised by the fetch and by `execLw` (R174). Safe: the spec's fault. -/
  | alignmentFault (va : Word64) (pc : Word64) (word : Option Word32)
  deriving DecidableEq, Repr

/-- Every word and every state has a defined outcome (00_scope.md R12), so no meaning refuses. -/
inductive Refusal where
  /-- The host's name for an arm without a meaning. No arm answers with it. Safe. -/
  | notModelled (mnemonic : String)
  deriving DecidableEq, Repr

/-- The Interconnect as the host finds it before it places anything: nothing backed, no answer
pending, nothing asked. -/
def Bus.empty : Bus := { mem := [], answers := [], reads := [] }

/-- The CPU state at creation: all-zero registers (R51). -/
def Cpu.creation (p : Params) : Cpu :=
  { gpr := Vector.replicate 32 0#64
    pc := 0#64
    fpr := Vector.replicate 32 0#64
    fcr0 := 0#32
    fcr31 := 0#32
    hi := 0#64
    lo := 0#64
    llbit := false
    cp0 := { config := configCreation p.resetK0ce, status := statusReset } }

/-- The machine after creation and power-on reset under given parameters (70_reset_and_hazards.md
R200, R201): the creation state with `pc`, Config and Status at their reset values. -/
def State.resetWith (p : Params) : State :=
  { cpu :=
      { Cpu.creation p with
        pc := bootVector
        cp0 := { config := configReset p.resetK0ce, status := statusReset } }
    bus := Bus.empty
    params := p }

/-- The machine right after reset, under the parameter values of `defaultParams`. -/
def State.reset : State := State.resetWith defaultParams

end Sys2Proof.Machine
end

