-- ==== Sys2Proof/Machine/Ops.lean ====
section
/-! DEFINITION. The named operations over registers, addresses and the bus (20_memory.md), the fetch
(40_engine.md R111), the advance (R114) and power-on reset (70_reset_and_hazards.md R201).
There is no exception entry and no return from one on this hardware: a fault is terminal and a step
that faults changes nothing (60_exceptions.md R176, R179, R180), so a fault is the outcome itself. -/

namespace Sys2Proof.Machine

/-- `read_gpr` (10_state.md R22). -/
def readGpr (s : State) (i : GprIdx) : Word64 := if i = 0 then 0#64 else s.cpu.gpr[i]

/-- `write_gpr` (10_state.md R23). -/
def writeGpr (s : State) (i : GprIdx) (v : Word64) : State :=
  if i = 0 then s else { s with cpu := { s.cpu with gpr := s.cpu.gpr.set i v } }

/-- Write the program counter. -/
def setPc (s : State) (v : Word64) : State := { s with cpu := { s.cpu with pc := v } }

/-- Replace the CP0 bank. -/
def setCp0 (s : State) (c : Cp0) : State := { s with cpu := { s.cpu with cp0 := c } }

/-- Replace the Interconnect. -/
def setBus (s : State) (b : Bus) : State := { s with bus := b }

/-- The first address of kseg1 (R65). -/
def kseg1Base : Word64 := 0xFFFFFFFFA0000000#64

/-- The segment selector, bits 31:29 (R64). -/
def segmentSelector (va : Word64) : BitVec 3 := va.extractLsb' 29 3

/-- `Translate(va)` (R65); `none` is the translation failure. It reads the address alone (R67). -/
def translateAddr (va : Word64) : Option PAddr :=
  if segmentSelector va ≠ 0b101#3 then none
  else if va.extractLsb' 32 32 ≠ 0xFFFFFFFF#32 then none
  else some ((va - kseg1Base).setWidth 32)

/-- Whether an address is a multiple of 4 (R69). -/
def aligned (va : Word64) : Bool := va.extractLsb' 0 2 == 0b00#2

/-- `Order(w)` (R63). -/
def order (o : WordOrder) (w : Word32) : Word32 :=
  match o with
  | .asReturned => w
  | .byteSwapped =>
    w.extractLsb' 0 8 ++ w.extractLsb' 8 8 ++ w.extractLsb' 16 8 ++ w.extractLsb' 24 8

/-- What the Interconnect answers to the next `read_word(pa)`: its pending answer, else the map's
word, else the failure of an unbacked address (R60, R62). -/
def busAnswer (b : Bus) (pa : PAddr) : BusAnswer :=
  match b.answers with
  | a :: _ => a
  | [] =>
    match b.mem.readWord pa with
    | some w => .word w
    | none => .failure (Config.unbackedFailure pa)

/-- The Interconnect after one `read_word(pa)`: the pending answer is used up and the address is
recorded. -/
def busAfterRead (b : Bus) (pa : PAddr) : Bus :=
  { b with answers := b.answers.tail, reads := pa :: b.reads }

/-- `MemRead(va, 4)` (R68), also the fetch's access (R111): alignment, translation, one bus read,
`Order`. `word` is the instruction word for the fault's payload, `none` for the fetch (R170). -/
def memRead (va : Word64) (word : Option Word32) (s : State) : Except Fault (Word32 × State) :=
  if aligned va then
    match translateAddr va with
    | none => .error (.translationFault va s.cpu.pc word)
    | some pa =>
      match busAnswer s.bus pa with
      | .failure f => .error (.busFault pa s.cpu.pc word f)
      | .word r => .ok (order s.params.wordOrder r, setBus s (busAfterRead s.bus pa))
  else .error (.alignmentFault va s.cpu.pc word)

/-- Fetch (R111): the access at the pc. -/
def fetch (s : State) : Except Fault (Word32 × State) := memRead s.cpu.pc none s

/-- Fetch and decode (R111, R112). -/
def fetchInstr (s : State) : Except Fault (Instr × State) :=
  match fetch s with
  | .error f => .error f
  | .ok (w, s1) =>
    match decode w with
    | .error (.unrecognizedInstruction word) => .error (.unrecognizedInstruction word s.cpu.pc)
    | .ok i => .ok (i, s1)

/-- Advance (R114): `pc + 4`, modulo 2^64. -/
def advance (s : State) : State := setPc s (s.cpu.pc + 4#64)

/-- The end of a step (R116): the advance follows a successful execute; a fault stays as it is. -/
def advanceOutcome (o : Host.Outcome State Fault Refusal) : Host.Outcome State Fault Refusal :=
  match o with
  | .next s => .next (advance s)
  | .fault f => .fault f
  | .refused r => .refused r

/-- `cp0.write_reg(index, data)` on the machine (10_state.md R46); a failed decode is the step's fault
(R140), with the payload of R170. -/
def writeCp0 (index : Cp0Idx) (data : Word32) (word : Word32) (s : State) :
    Host.Outcome State Fault Refusal :=
  match writeReg s.cpu.cp0 index data with
  | .ok c => .next (setCp0 s c)
  | .error e => .fault (.decodeError e.register e.field e.raw index word s.cpu.pc)

/-- The machine at creation (R51). -/
def State.create (p : Params) : State := { cpu := Cpu.creation p, bus := Bus.empty, params := p }

/-- `power_on_reset` (R201): exactly these writes. -/
def powerOnReset (s : State) : State :=
  setCp0 (setPc s bootVector)
    { config := configReset s.params.resetK0ce, status := statusReset }

/-- The numeric tag of a fault kind (60_exceptions.md R170, decision D28). -/
def faultTag : Fault → Nat
  | .unrecognizedInstruction _ _ => 1
  | .decodeError _ _ _ _ _ _ => 2
  | .translationFault _ _ _ => 3
  | .busFault _ _ _ _ => 4
  | .alignmentFault _ _ _ => 5

/-- The Interconnect with `w` as its answer to the next read, at `pa`: listed in the map, or put
before the pending answers where there are some. -/
def placeBusWord (b : Bus) (pa : PAddr) (w : Word32) : Bus :=
  match b.answers with
  | [] => { b with mem := b.mem.writeWord pa w }
  | _ :: _ => { b with answers := .word w :: b.answers }

/-- The machine with the instruction word `w` where the next fetch reads. `order` is its own inverse,
so the word placed is `order w`. Where the pc has no physical address nothing can be placed. -/
def placeFetchWord (s : State) (w : Word32) : State :=
  match translateAddr s.cpu.pc with
  | none => s
  | some pa => setBus s (placeBusWord s.bus pa (order s.params.wordOrder w))

end Sys2Proof.Machine
end

