-- ==== Sys2Proof/Machine/Operands.lean ====
section
/-! DEFINITION. The operand forms: the three immediates (30_encoding.md R94, R95, R96), LW's effective
address (43_load.md R150, R151) and the 32-bit operand of MTC0 (42_cop0_move.md R140). -/

namespace Sys2Proof.Machine

/-- ORI's immediate: `zext_64(imm)` (R94). -/
def oriImmediate (imm : BitVec 16) : Word64 := imm.setWidth 64

/-- LUI's immediate: `sext_64(zext_32(imm) << 16)` (R95). -/
def luiImmediate (imm : BitVec 16) : Word64 := (imm.setWidth 32 <<< 16).signExtend 64

/-- LW's offset: `sext_64(imm)` (R96). -/
def lwOffset (imm : BitVec 16) : Word64 := imm.signExtend 64

/-- LW's effective address: base plus offset, modulo 2^64 (R150). -/
def effectiveAddress (s : State) (rs : GprIdx) (imm : BitVec 16) : Word64 :=
  readGpr s rs + lwOffset imm

/-- MTC0's operand: `trunc_32(x[rt])` (R140). -/
def mtc0Operand (s : State) (rt : GprIdx) : Word32 := (readGpr s rt).setWidth 32

/-- A loaded word as a register value: `sext_64(r)` (R150). -/
def loadedValue (r : Word32) : Word64 := r.signExtend 64

end Sys2Proof.Machine
end

