-- ==== Sys2Proof/Machine/Cop0Move.lean ====
section
/-! DEFINITION. The move to coprocessor 0 (42_cop0_move.md). -/

namespace Sys2Proof.Machine

/-- MTC0 (R140), and every other COP0 word (R141): writes `trunc_32(x[rt])` to CP0 index `rd`, in every
mode (R142). The ignored bits go only into the fault's instruction word. -/
def execMtc0 (subIgnored : BitVec 5) (rt : GprIdx) (rd : Cp0Idx) (lowIgnored : BitVec 11)
    (s : State) : Host.Outcome State Fault Refusal :=
  writeCp0 rd (mtc0Operand s rt) (encode (.mtc0 subIgnored rt rd lowIgnored)) s

end Sys2Proof.Machine
end

