-- ==== Sys2Proof/Machine/ImmediateAlu.lean ====
section
/-! DEFINITION. The immediate ALU instructions (41_immediate_alu.md). -/

namespace Sys2Proof.Machine

/-- ORI (R130): `x[rt] <- x[rs] | zext_64(imm)`. -/
def execOri (rs rt : GprIdx) (imm : BitVec 16) (s : State) : Host.Outcome State Fault Refusal :=
  .next (writeGpr s rt (readGpr s rs ||| oriImmediate imm))

/-- LUI (R131, R132): `x[rt] <- sext_64(imm << 16)`; bits 25:21 are ignored (R100). -/
def execLui (_rsIgnored : BitVec 5) (rt : GprIdx) (imm : BitVec 16) (s : State) :
    Host.Outcome State Fault Refusal :=
  .next (writeGpr s rt (luiImmediate imm))

end Sys2Proof.Machine
end

