-- ==== Sys2Proof/Machine/Load.lean ====
section
/-! DEFINITION. The load word instruction (43_load.md). -/

namespace Sys2Proof.Machine

/-- LW (R150): the read is performed, and may fault, for `rt = 0` too (decision D20). -/
def execLw (rs rt : GprIdx) (imm : BitVec 16) (s : State) : Host.Outcome State Fault Refusal :=
  match memRead (effectiveAddress s rs imm) (some (encode (.lw rs rt imm))) s with
  | .error f => .fault f
  | .ok (r, s1) => .next (writeGpr s1 rt (loadedValue r))

end Sys2Proof.Machine
end

