-- ==== Sys2Proof/Machine/Dispatch.lean ====
section
/-! DEFINITION. Execute/dispatch (40_engine.md R113): one handler per instruction. -/

namespace Sys2Proof.Machine

def exec (i : Instr) (s : State) : Host.Outcome State Fault Refusal :=
  match i with
  | .ori rs rt imm => Sys2Proof.Machine.execOri rs rt imm s
  | .lui rsIgnored rt imm => Sys2Proof.Machine.execLui rsIgnored rt imm s
  | .mtc0 subIgnored rt rd lowIgnored => Sys2Proof.Machine.execMtc0 subIgnored rt rd lowIgnored s
  | .lw rs rt imm => Sys2Proof.Machine.execLw rs rt imm s

end Sys2Proof.Machine
end

