-- ==== Sys2Proof/Machine/Driver.lean ====
section
/-! DEFINITION. The driver (40_engine.md R120 to R123): a run of steps, what is observed, and the moves of the host
and of the other bus agents between steps. -/

namespace Sys2Proof.Machine

/-- How a run ends (R122): after the driver's last step, or at the first fault, with the state as it
was before the faulting step (R115). A faulted end is final (60_exceptions.md R176). `refused` is the
host's third outcome; no run ends so. -/
inductive RunEnd where
  | done (s : State)
  | faulted (f : Fault) (s : State)
  | refused (r : Refusal) (s : State)
  deriving DecidableEq, Repr

/-- What follows an end: nothing after a fault (R176), `next` from the reached state otherwise. -/
def RunEnd.bind (e : RunEnd) (next : State → RunEnd) : RunEnd :=
  match e with
  | .done s => next s
  | .faulted f s => .faulted f s
  | .refused r s => .refused r s

/-- One step, with the state the spec's step returns beside a fault (R116). -/
def stepEnd (s : State) : RunEnd :=
  match step s with
  | .next t => .done t
  | .fault f => .faulted f s
  | .refused r => .refused r s

/-- A run of `n` driver-chosen steps (R122). -/
def run : Nat → State → RunEnd
  | 0, s => .done s
  | n + 1, s => (stepEnd s).bind (run n)

/-- What the driver observes of a state (R121): the whole CPU state, its GPRs read through `read_gpr`. -/
def observe (s : State) : Cpu := { s.cpu with gpr := Vector.ofFn (readGpr s) }

/-- What the host and the other bus agents may do between steps (R123). -/
inductive HostMove where
  /-- Call `step` once. -/
  | step
  /-- Call `power_on_reset`. -/
  | reset
  /-- A bus agent lists a byte of the map. -/
  | busWrite (pa : PAddr) (v : Byte)
  /-- A bus agent makes an address unbacked. -/
  | busUnmap (pa : PAddr)
  /-- The Interconnect will answer the next reads so. -/
  | busAnswers (l : List BusAnswer)
  deriving DecidableEq, Repr

/-- One move. -/
def hostMove (m : HostMove) (s : State) : RunEnd :=
  match m with
  | .step => stepEnd s
  | .reset => .done (powerOnReset s)
  | .busWrite pa v => .done (setBus s { s.bus with mem := s.bus.mem.write pa.toNat v })
  | .busUnmap pa => .done (setBus s { s.bus with mem := s.bus.mem.erase pa.toNat })
  | .busAnswers l => .done (setBus s { s.bus with answers := l })

/-- A sequence of moves; the first fault ends it. -/
def drive : List HostMove → State → RunEnd
  | [], s => .done s
  | m :: ms, s => (hostMove m s).bind (drive ms)

end Sys2Proof.Machine
end

