-- ==== Sys2Proof/Safety.lean ====
section
/-! DEFINITION. What counts as a safe state and a safe step, in the terms the statements use: the
invariant of the machine, and the conditions under which a step completes
(70_reset_and_hazards.md R206). -/

namespace Sys2Proof.Machine

/-- `pc` is a multiple of 4 (10_state.md R27). -/
abbrev PcAligned (s : State) : Prop := s.cpu.pc.toNat % 4 = 0

/-- The stored cell of GPR 0 holds 0 (10_state.md R21, R24). -/
abbrev ZeroCellZero (s : State) : Prop := s.cpu.gpr[0] = 0#64

/-- Every address the core has asked is a multiple of 4 below 2^29 (20_memory.md R60, R66). -/
def ReadsInWindow (s : State) : Prop := ∀ pa ∈ s.bus.reads, pa.toNat % 4 = 0 ∧ pa.toNat < 0x20000000

/-- The machine's invariant. -/
def Inv (s : State) : Prop :=
  s.bus.mem.wf ∧ PcAligned s ∧ ZeroCellZero s ∧ ReadsInWindow s

/-- Every GPR is the sign extension of its low 32 bits (95_test_vectors.md, note after Part 2.9). -/
abbrev GprsSignExtended (s : State) : Prop :=
  ∀ i : GprIdx, readGpr s i = ((readGpr s i).setWidth 32).signExtend 64

/-- The address lies in kseg1 (20_memory.md R65). -/
abbrev InKseg1 (va : Word64) : Prop :=
  0xFFFFFFFFA0000000 ≤ va.toNat ∧ va.toNat ≤ 0xFFFFFFFFBFFFFFFF

/-- The physical address of a kseg1 address: the offset from the segment's base (20_memory.md R65). -/
def kseg1Offset (va : Word64) : PAddr := BitVec.ofNat 32 (va.toNat - 0xFFFFFFFFA0000000)

/-- A read at `va` succeeds and the Interconnect's word is `r` (20_memory.md R68). -/
abbrev ReadServed (s : State) (va : Word64) (r : Word32) : Prop :=
  va.toNat % 4 = 0 ∧ InKseg1 va ∧ busAnswer s.bus (kseg1Offset va) = .word r

/-- A CP0 write that decodes (R206, item 5). -/
abbrev Cp0WriteValid (rd : Cp0Idx) (v : Word32) : Prop :=
  (rd = 12 → v.extractLsb' 3 2 ≠ 0b11#2) ∧
  (rd = 16 → v.extractLsb' 24 4 = 0#4 ∨ v.extractLsb' 24 4 = 6#4)

/-- When an instruction's execute phase completes (R206, items 4 and 5). -/
def InstrReady (i : Instr) (s : State) : Prop :=
  match i with
  | .ori _ _ _ => True
  | .lui _ _ _ => True
  | .mtc0 _ rt rd _ => Cp0WriteValid rd (mtc0Operand s rt)
  | .lw rs _ imm => ∃ r, ReadServed s (effectiveAddress s rs imm) r

/-- The machine after the fetch's bus read. -/
def afterFetch (s : State) : State := setBus s (busAfterRead s.bus (kseg1Offset s.cpu.pc))

/-- When a step completes (R206, items 2 to 5). -/
def StepReady (s : State) : Prop :=
  ∃ r i, ReadServed s s.cpu.pc r ∧ decode (order s.params.wordOrder r) = .ok i ∧
    InstrReady i (afterFetch s)

/-- The registers no instruction reads or writes (10_state.md R28, R29, R30), and the parameters, are
the same. -/
def UnusedSame (s t : State) : Prop :=
  t.cpu.fpr = s.cpu.fpr ∧ t.cpu.fcr0 = s.cpu.fcr0 ∧ t.cpu.fcr31 = s.cpu.fcr31 ∧
  t.cpu.hi = s.cpu.hi ∧ t.cpu.lo = s.cpu.lo ∧ t.cpu.llbit = s.cpu.llbit ∧ t.params = s.params

/-- Every byte of memory reads as before. -/
def MemorySame (s t : State) : Prop := ∀ a, t.bus.mem.read a = s.bus.mem.read a

/-- Every GPR but `rt` reads as before. -/
def GprsSameExcept (rt : GprIdx) (s t : State) : Prop := ∀ j, j ≠ rt → readGpr t j = readGpr s j

/-- The state with another value in the stored cell of GPR 0. -/
def setZeroCell (v : Word64) (s : State) : State :=
  { s with cpu := { s.cpu with gpr := s.cpu.gpr.set 0 v } }

/-- The state with other values in the registers no instruction uses. -/
def setUnused (fpr : Vector Word64 32) (fcr0 fcr31 : Word32) (hi lo : Word64) (llbit : Bool)
    (s : State) : State :=
  { s with
    cpu :=
      { s.cpu with fpr := fpr, fcr0 := fcr0, fcr31 := fcr31, hi := hi, lo := lo, llbit := llbit } }

/-- An outcome with its next state changed by `g`; a stop stays as it is. -/
def mapNext (g : State → State) (o : Host.Outcome State Fault Refusal) :
    Host.Outcome State Fault Refusal :=
  match o with
  | .next s => .next (g s)
  | .fault f => .fault f
  | .refused r => .refused r

/-- Two outcomes of one kind: next states related by `R`, or the same stop. -/
def OutcomesRelated (R : State → State → Prop) (o o' : Host.Outcome State Fault Refusal) : Prop :=
  match o, o' with
  | .next t, .next t' => R t t'
  | .fault f, .fault f' => f = f'
  | .refused r, .refused r' => r = r'
  | _, _ => False

/-- The pc a fault reports (60_exceptions.md R170). -/
def faultPc : Fault → Word64
  | .unrecognizedInstruction _ pc => pc
  | .decodeError _ _ _ _ _ pc => pc
  | .translationFault _ pc _ => pc
  | .busFault _ pc _ _ => pc
  | .alignmentFault _ pc _ => pc

/-- The instruction word a fault reports, where it has one (60_exceptions.md R170). -/
def faultWord : Fault → Option Word32
  | .unrecognizedInstruction word _ => some word
  | .decodeError _ _ _ _ word _ => some word
  | .translationFault _ _ word => word
  | .busFault _ _ word _ => word
  | .alignmentFault _ _ word => word

end Sys2Proof.Machine
end

