-- ==== Sys2Proof/Certificates/Slice0/Obligations.lean ====
section
/-! DEFINITION. The statements for the provers, each a formalisation of rules of spec/.
A statement quantifies over every state, hence over every value of the open parameters
`P_WORD_ORDER` and `P_RESET_K0CE` and over every answer of the Interconnect. Where a clause rests on
one of the spec's own decisions (D1 to D28 of 92_eei_decisions.md), the docstring names it. -/

open Sys2Proof Sys2Proof.Machine

/-! ### General registers -/

/-- 10_state.md R22, R23: what `read_gpr` and `write_gpr` do, index 0 among the others, and that a
write changes nothing else. -/
def Obligations.GprReadAndWrite : Prop :=
  ∀ (s : State) (i : GprIdx) (v : Word64),
    readGpr s 0 = 0#64 ∧
    (∀ j : GprIdx, j ≠ 0 → readGpr s j = s.cpu.gpr[j]) ∧
    writeGpr s 0 v = s ∧
    (i ≠ 0 → writeGpr s i v = { s with cpu := { s.cpu with gpr := s.cpu.gpr.set i v } }) ∧
    (i ≠ 0 → readGpr (writeGpr s i v) i = v) ∧
    (∀ j : GprIdx, j ≠ i → readGpr (writeGpr s i v) j = readGpr s j)

/-- 10_state.md R24: no handler bypasses the zero rule. The stored cell of index 0 can hold anything:
every step goes the same way, and neither a read nor the observation sees it; a write of index 0 reads
0, any other reads back. -/
def Obligations.NoHandlerReadsTheZeroCell : Prop :=
  (∀ (s : State) (v : Word64), step (setZeroCell v s) = mapNext (setZeroCell v) (step s)) ∧
  (∀ (s : State) (v : Word64) (i : GprIdx), readGpr (setZeroCell v s) i = readGpr s i) ∧
  (∀ (s : State) (v : Word64), observe (setZeroCell v s) = observe s) ∧
  (∀ (s : State) (v : Word64), readGpr (writeGpr s 0 v) 0 = 0#64) ∧
  (∀ (s : State) (v : Word64) (i : GprIdx), i ≠ 0 → readGpr (writeGpr s i v) i = v)

/-! ### Immediates, ORI and LUI -/

/-- 30_encoding.md R94, R95, R96: the three immediates bit by bit. -/
def Obligations.ImmediateOperandBits : Prop :=
  ∀ (imm : BitVec 16) (k : Nat), k < 64 →
    (oriImmediate imm).getLsbD k = (decide (k < 16) && imm.getLsbD k) ∧
    (luiImmediate imm).getLsbD k =
      (if k < 16 then false else if k < 32 then imm.getLsbD (k - 16) else imm.getLsbD 15) ∧
    (lwOffset imm).getLsbD k = (if k < 16 then imm.getLsbD k else imm.getLsbD 15)

/-- 41_immediate_alu.md R130: ORI's word, its decoding, its result in every form (`rt = 0`, `rs = 0`,
`rs = rt`, `imm = 0`), the kept upper bits and its frame. It never faults. -/
def Obligations.OriResultAndFrame : Prop :=
  (∀ (rs rt : GprIdx) (imm : BitVec 16),
    encode (.ori rs rt imm) =
      0x34000000#32 ||| (BitVec.ofNat 32 rs <<< 21) ||| (BitVec.ofNat 32 rt <<< 16) |||
        imm.setWidth 32) ∧
  (∀ w : Word32, w &&& 0xFC000000#32 = 0x34000000#32 →
    decode w = .ok (.ori (w.extractLsb' 21 5).toFin (w.extractLsb' 16 5).toFin
      (w.extractLsb' 0 16))) ∧
  ∀ (rs rt : GprIdx) (imm : BitVec 16) (s : State), ∃ t,
    exec (.ori rs rt imm) s = .next t ∧
    (rt ≠ 0 → readGpr t rt = readGpr s rs ||| imm.setWidth 64) ∧
    (rt ≠ 0 → (readGpr t rt).extractLsb' 16 48 = (readGpr s rs).extractLsb' 16 48) ∧
    (rt = 0 → t = s) ∧
    GprsSameExcept rt s t ∧ UnusedSame s t ∧ MemorySame s t ∧
    t.cpu.pc = s.cpu.pc ∧ t.cpu.cp0 = s.cpu.cp0 ∧ t.bus = s.bus

/-- 41_immediate_alu.md R131: LUI's word, its decoding, its result piece by piece, that neither the
ignored field nor the state's registers show in it, and its frame. It never faults. -/
def Obligations.LuiResultAndFrame : Prop :=
  (∀ (rs : BitVec 5) (rt : GprIdx) (imm : BitVec 16),
    encode (.lui rs rt imm) =
      0x3C000000#32 ||| (rs.setWidth 32 <<< 21) ||| (BitVec.ofNat 32 rt <<< 16) |||
        imm.setWidth 32) ∧
  (∀ w : Word32, w &&& 0xFC000000#32 = 0x3C000000#32 →
    decode w = .ok (.lui (w.extractLsb' 21 5) (w.extractLsb' 16 5).toFin (w.extractLsb' 0 16))) ∧
  ∀ (rs : BitVec 5) (rt : GprIdx) (imm : BitVec 16) (s : State), ∃ t,
    exec (.lui rs rt imm) s = .next t ∧
    (∀ rs' : BitVec 5, exec (.lui rs' rt imm) s = .next t) ∧
    (rt ≠ 0 → (readGpr t rt).extractLsb' 0 16 = 0#16 ∧
      (readGpr t rt).extractLsb' 16 16 = imm ∧
      (readGpr t rt).extractLsb' 32 32 = if imm.getLsbD 15 then 0xFFFFFFFF#32 else 0#32) ∧
    (rt = 0 → t = s) ∧
    GprsSameExcept rt s t ∧ UnusedSame s t ∧ MemorySame s t ∧
    t.cpu.pc = s.cpu.pc ∧ t.cpu.cp0 = s.cpu.cp0 ∧ t.bus = s.bus

/-- 41_immediate_alu.md R133: the pair `lui $t, hi`, `ori $t, $t, lo` completes and leaves the sign
extension of `hi ++ lo` in the register (0 in register 0), and changes nothing else. -/
def Obligations.LuiThenOriBuildsConstant : Prop :=
  ∀ (rs : BitVec 5) (rt : GprIdx) (hi lo : BitVec 16) (s : State), ∃ t u,
    exec (.lui rs rt hi) s = .next t ∧ exec (.ori rt rt lo) t = .next u ∧
    readGpr u rt = (if rt = 0 then 0#64 else (hi ++ lo : BitVec 32).signExtend 64) ∧
    GprsSameExcept rt s u ∧ UnusedSame s u ∧ u.cpu.pc = s.cpu.pc ∧ u.cpu.cp0 = s.cpu.cp0 ∧
    u.bus = s.bus

/-! ### CP0 -/

/-- 10_state.md R33, with the other fields of R34 to R37: Config decodes exactly when bits 27:24 are 0
or 6, field by field; otherwise the failure names register, field and word. -/
def Obligations.ConfigDecodeByFields : Prop :=
  ∀ w : Word32,
    (w.extractLsb' 24 4 = 0#4 → ∃ c, decodeConfig w = .ok c ∧ c.dataTransferPattern = .normal) ∧
    (w.extractLsb' 24 4 = 6#4 → ∃ c, decodeConfig w = .ok c ∧ c.dataTransferPattern = .dxxdxx) ∧
    (w.extractLsb' 24 4 ≠ 0#4 → w.extractLsb' 24 4 ≠ 6#4 →
      decodeConfig w = .error ⟨.config, .dataTransferPattern, w⟩) ∧
    (∀ c, decodeConfig w = .ok c →
      (w.getLsbD 15 = false → c.endianness = .little) ∧
      (w.getLsbD 15 = true → c.endianness = .big) ∧
      c.cu = w.getLsbD 3 ∧
      (c.kseg0CacheEnabled = false ↔ w.extractLsb' 0 3 = 0b010#3))

/-- 10_state.md R38, with the other fields of R39 to R43: Status decodes exactly when bits 4:3 are not
`11`, field by field; otherwise the failure names register, field and word. -/
def Obligations.StatusDecodeByFields : Prop :=
  ∀ w : Word32,
    (w.extractLsb' 3 2 = 0b11#2 → decodeStatus w = .error ⟨.status, .ksu, w⟩) ∧
    (w.extractLsb' 3 2 ≠ 0b11#2 → ∃ s, decodeStatus w = .ok s) ∧
    (∀ s, decodeStatus w = .ok s →
      (∀ k : Fin 4, s.cu[k] = w.getLsbD (31 - k)) ∧
      s.lowPower = w.getLsbD 27 ∧ s.additionalFpRegisters = w.getLsbD 26 ∧
      s.reverseEndian = w.getLsbD 25 ∧ s.kernel64bitAddressing = w.getLsbD 7 ∧
      s.supervisor64bitAddressing = w.getLsbD 6 ∧ s.user64bitAddressing = w.getLsbD 5 ∧
      s.errorLevel = w.getLsbD 2 ∧ s.exceptionLevel = w.getLsbD 1 ∧
      s.globalInterruptEnable = w.getLsbD 0 ∧
      s.ds.instructionTraceSupport = w.getLsbD 24 ∧
      (s.ds.exceptionVectorLocation = .bootstrap ↔ w.getLsbD 22 = true) ∧
      s.ds.tlbShutdown = w.getLsbD 21 ∧ s.ds.softResetOrNmiOccurred = w.getLsbD 20 ∧
      s.ds.conditionBit = w.getLsbD 18 ∧ s.im.timerInterrupt = w.getLsbD 15 ∧
      (∀ k : Fin 5, s.im.externalInterruptWriteReq[k] = w.getLsbD (10 + k)) ∧
      (∀ k : Fin 2, s.im.softwareInterruptCause[k] = w.getLsbD (8 + k)) ∧
      (s.ksu = .kernel ↔ w.extractLsb' 3 2 = 0b00#2) ∧
      (s.ksu = .supervisor ↔ w.extractLsb' 3 2 = 0b01#2) ∧
      (s.ksu = .user ↔ w.extractLsb' 3 2 = 0b10#2))

/-- 10_state.md R49: the round-trip laws of Config and Status (the encoded form of unnamed bits is the
spec's decision D13). -/
def Obligations.Cp0NamedFieldsRoundTrip : Prop :=
  (∀ c : ConfigReg, decodeConfig (encodeConfig c) = .ok c) ∧
  (∀ s : StatusReg, decodeStatus (encodeStatus s) = .ok s) ∧
  (∀ w s, decodeStatus w = .ok s → encodeStatus s = w &&& 0xFF74FFFF#32) ∧
  (∀ w c, decodeConfig w = .ok c →
    encodeConfig c &&& 0x0F008008#32 = w &&& 0x0F008008#32 ∧
    ((encodeConfig c).extractLsb' 0 3 = 0b010#3 ↔ w.extractLsb' 0 3 = 0b010#3))

/-- 10_state.md R50: two words that agree on the named bits write the same register; of Config bits
2:0 only whether they are `010` matters. -/
def Obligations.Cp0UnnamedBitsDiscarded : Prop :=
  (∀ (c : Cp0) (w w' : Word32), w &&& 0xFF74FFFF#32 = w' &&& 0xFF74FFFF#32 →
    w.extractLsb' 3 2 ≠ 0b11#2 →
    ∃ c', writeReg c statusIndex w = .ok c' ∧ writeReg c statusIndex w' = .ok c') ∧
  (∀ (c : Cp0) (w w' : Word32), w &&& 0x0F008008#32 = w' &&& 0x0F008008#32 →
    (w.extractLsb' 0 3 = 0b010#3 ↔ w'.extractLsb' 0 3 = 0b010#3) →
    (w.extractLsb' 24 4 = 0#4 ∨ w.extractLsb' 24 4 = 6#4) →
    ∃ c', writeReg c configIndex w = .ok c' ∧ writeReg c configIndex w' = .ok c')

/-- 10_state.md R46, R47: a bank write replaces the whole selected register whatever it held, leaves
the other, and ignores every other index. The index numbers are the spec's decision D1. -/
def Obligations.BankWriteReplacesOneRegister : Prop :=
  ∀ (c : Cp0) (index : Cp0Idx) (data : Word32),
    (index = 12 → (∀ st, decodeStatus data = .ok st →
        writeReg c index data = .ok { config := c.config, status := st }) ∧
      (∀ e, decodeStatus data = .error e → writeReg c index data = .error e)) ∧
    (index = 16 → (∀ cf, decodeConfig data = .ok cf →
        writeReg c index data = .ok { config := cf, status := c.status }) ∧
      (∀ e, decodeConfig data = .error e → writeReg c index data = .error e)) ∧
    (index ≠ 12 → index ≠ 16 → writeReg c index data = .ok c)

/-- 42_cop0_move.md R140: MTC0's word, its decoding, and its effect: Status, Config or nothing, with
the two decode faults and their payloads. A completed MTC0 changes the bank alone. The index numbers
are the spec's decision D1. -/
def Obligations.Mtc0ResultAndFaults : Prop :=
  (∀ (sub : BitVec 5) (rt : GprIdx) (rd : Cp0Idx) (low : BitVec 11),
    encode (.mtc0 sub rt rd low) =
      0x40000000#32 ||| (sub.setWidth 32 <<< 21) ||| (BitVec.ofNat 32 rt <<< 16) |||
        (BitVec.ofNat 32 rd <<< 11) ||| low.setWidth 32) ∧
  (∀ w : Word32, w &&& 0xFC000000#32 = 0x40000000#32 →
    decode w = .ok (.mtc0 (w.extractLsb' 21 5) (w.extractLsb' 16 5).toFin
      (w.extractLsb' 11 5).toFin (w.extractLsb' 0 11))) ∧
  ∀ (sub : BitVec 5) (rt : GprIdx) (rd : Cp0Idx) (low : BitVec 11) (s : State) (v : Word32),
    v = (readGpr s rt).setWidth 32 →
    (rd = 12 → v.extractLsb' 3 2 ≠ 0b11#2 → ∃ st, decodeStatus v = .ok st ∧
      exec (.mtc0 sub rt rd low) s = .next (setCp0 s { config := s.cpu.cp0.config, status := st })) ∧
    (rd = 12 → v.extractLsb' 3 2 = 0b11#2 →
      exec (.mtc0 sub rt rd low) s =
        .fault (.decodeError .status .ksu v rd (encode (.mtc0 sub rt rd low)) s.cpu.pc)) ∧
    (rd = 16 → (v.extractLsb' 24 4 = 0#4 ∨ v.extractLsb' 24 4 = 6#4) → ∃ cf,
      decodeConfig v = .ok cf ∧
      exec (.mtc0 sub rt rd low) s = .next (setCp0 s { config := cf, status := s.cpu.cp0.status })) ∧
    (rd = 16 → v.extractLsb' 24 4 ≠ 0#4 → v.extractLsb' 24 4 ≠ 6#4 →
      exec (.mtc0 sub rt rd low) s =
        .fault (.decodeError .config .dataTransferPattern v rd (encode (.mtc0 sub rt rd low))
          s.cpu.pc)) ∧
    (rd ≠ 12 → rd ≠ 16 → exec (.mtc0 sub rt rd low) s = .next s)

/-- MTC0's frame, on every completed path: no GPR, no unused register, no byte of memory, no bus
traffic, and of the bank at most the selected register (10_state.md R25, R46; index numbers: D1). -/
def Obligations.Mtc0Frame : Prop :=
  ∀ (sub : BitVec 5) (rt : GprIdx) (rd : Cp0Idx) (low : BitVec 11) (s t : State),
    exec (.mtc0 sub rt rd low) s = .next t →
    (∀ j, readGpr t j = readGpr s j) ∧ UnusedSame s t ∧ MemorySame s t ∧ t.bus = s.bus ∧
    t.cpu.pc = s.cpu.pc ∧
    (rd ≠ 12 → t.cpu.cp0.status = s.cpu.cp0.status) ∧
    (rd ≠ 16 → t.cpu.cp0.config = s.cpu.cp0.config)

/-- 42_cop0_move.md R141: the COP0 words MIPS reads as other instructions are MTC0 here: the three
moves write CP0 from the GPR, and BC0F, TLBR, TLBWI, TLBWR, TLBP and ERET change nothing. -/
def Obligations.MipsCop0WordsAreMtc0 : Prop :=
  decode 0x40086000#32 = .ok (.mtc0 0 8 12 0) ∧
  decode 0x40288000#32 = .ok (.mtc0 1 8 16 0) ∧
  decode 0x40A86000#32 = .ok (.mtc0 5 8 12 0) ∧
  (∀ (w : Word32), w ∈ [0x41000003#32, 0x42000001#32, 0x42000002#32, 0x42000006#32, 0x42000008#32,
      0x42000018#32] →
    ∃ i, decode w = .ok i ∧ ∀ s : State, exec i s = .next s) ∧
  (∀ (s t : State) (v : Word32) (st : StatusReg), v = (readGpr s 8).setWidth 32 →
    decodeStatus v = .ok st →
    t = setCp0 s { config := s.cpu.cp0.config, status := st } →
    exec (.mtc0 0 8 12 0) s = .next t ∧ exec (.mtc0 5 8 12 0) s = .next t ∧
    exec (.mtc0 4 8 12 0) s = .next t) ∧
  (∀ (s t : State) (v : Word32) (cf : ConfigReg), v = (readGpr s 8).setWidth 32 →
    decodeConfig v = .ok cf →
    t = setCp0 s { config := cf, status := s.cpu.cp0.status } →
    exec (.mtc0 1 8 16 0) s = .next t)

/-! ### Translation and LW -/

/-- 20_memory.md R65, R66: translation succeeds exactly on kseg1 and gives the offset, below 2^29.
That addresses with selector `101` outside the range fail is the spec's decision D6. -/
def Obligations.TranslateExactlyKseg1 : Prop :=
  ∀ (va : Word64) (pa : PAddr),
    (translateAddr va = some pa ↔ InKseg1 va ∧ pa = kseg1Offset va) ∧
    (translateAddr va = some pa → pa.toNat < 2 ^ 29) ∧
    (segmentSelector va ≠ 0b101#3 → translateAddr va = none)

/-- 20_memory.md R63: `AsReturned` keeps the word, `ByteSwapped` reverses its four bytes. -/
def Obligations.OrderReversesBytes : Prop :=
  ∀ w : Word32, order .asReturned w = w ∧
    ∀ k : Fin 4, (order .byteSwapped w).extractLsb' (8 * k) 8 = w.extractLsb' (8 * (3 - k)) 8

/-- 43_load.md R150: LW's word and decoding, and its completion: with an aligned kseg1 address the
Interconnect answers, `rt` takes the ordered word sign-extended (nothing for `rt = 0`, decision D20),
exactly one address is asked, and nothing else changes. The address is base plus offset modulo 2^64
(decision D7). -/
def Obligations.LwLoadsAndFrame : Prop :=
  (∀ (rs rt : GprIdx) (imm : BitVec 16),
    encode (.lw rs rt imm) =
      0x8C000000#32 ||| (BitVec.ofNat 32 rs <<< 21) ||| (BitVec.ofNat 32 rt <<< 16) |||
        imm.setWidth 32) ∧
  (∀ w : Word32, w &&& 0xFC000000#32 = 0x8C000000#32 →
    decode w = .ok (.lw (w.extractLsb' 21 5).toFin (w.extractLsb' 16 5).toFin
      (w.extractLsb' 0 16))) ∧
  ∀ (rs rt : GprIdx) (imm : BitVec 16) (s : State) (va : Word64) (r : Word32),
    va = readGpr s rs + imm.signExtend 64 → ReadServed s va r → ∃ t,
      exec (.lw rs rt imm) s = .next t ∧
      (rt ≠ 0 → readGpr t rt = (order s.params.wordOrder r).signExtend 64) ∧
      readGpr t 0 = 0#64 ∧
      GprsSameExcept rt s t ∧ UnusedSame s t ∧ MemorySame s t ∧
      t.cpu.pc = s.cpu.pc ∧ t.cpu.cp0 = s.cpu.cp0 ∧
      t.bus.answers = s.bus.answers.tail ∧ t.bus.reads = kseg1Offset va :: s.bus.reads

/-- 43_load.md R150, 60_exceptions.md R177: LW's three faults, in order, with payload
(decisions D8 and D11), whatever `rt` is (decision D20). -/
def Obligations.LwFaultsInOrder : Prop :=
  ∀ (rs rt : GprIdx) (imm : BitVec 16) (s : State) (va : Word64),
    va = readGpr s rs + imm.signExtend 64 →
    (va.toNat % 4 ≠ 0 → exec (.lw rs rt imm) s =
      .fault (.alignmentFault va s.cpu.pc (some (encode (.lw rs rt imm))))) ∧
    (va.toNat % 4 = 0 → ¬ InKseg1 va → exec (.lw rs rt imm) s =
      .fault (.translationFault va s.cpu.pc (some (encode (.lw rs rt imm))))) ∧
    (va.toNat % 4 = 0 → InKseg1 va →
      ∀ e, busAnswer s.bus (kseg1Offset va) = .failure e → exec (.lw rs rt imm) s =
        .fault (.busFault (kseg1Offset va) s.cpu.pc (some (encode (.lw rs rt imm))) e))

/-- 43_load.md R150 (corner case): LW with base `$0` never completes; an aligned one has a
translation fault, a misaligned one an alignment fault (decisions D8 and D11). -/
def Obligations.LwFromRegisterZeroFaults : Prop :=
  ∀ (rt : GprIdx) (imm : BitVec 16) (s : State),
    (imm.toNat % 4 = 0 → exec (.lw 0 rt imm) s =
      .fault (.translationFault (imm.signExtend 64) s.cpu.pc (some (encode (.lw 0 rt imm))))) ∧
    (imm.toNat % 4 ≠ 0 → exec (.lw 0 rt imm) s =
      .fault (.alignmentFault (imm.signExtend 64) s.cpu.pc (some (encode (.lw 0 rt imm)))))

/-- 20_memory.md R75: a LW that faults on alignment or translation performs no bus read: its outcome
is the same whatever the Interconnect is. -/
def Obligations.LwFaultBeforeBusIgnoresBus : Prop :=
  ∀ (rs rt : GprIdx) (imm : BitVec 16) (s : State) (b : Bus) (va : Word64),
    va = readGpr s rs + imm.signExtend 64 → va.toNat % 4 ≠ 0 ∨ ¬ InKseg1 va →
    exec (.lw rs rt imm) (setBus s b) = exec (.lw rs rt imm) s

/-! ### Decoding and encoding -/

/-- 30_encoding.md R98: the primary opcode selects the record, and each field comes from its bits. -/
def Obligations.DispatchByPrimaryOpcode : Prop :=
  ∀ w : Word32,
    (w.extractLsb' 26 6 = 0b001101#6 → decode w = .ok (.ori (w.extractLsb' 21 5).toFin
      (w.extractLsb' 16 5).toFin (w.extractLsb' 0 16))) ∧
    (w.extractLsb' 26 6 = 0b001111#6 → decode w = .ok (.lui (w.extractLsb' 21 5)
      (w.extractLsb' 16 5).toFin (w.extractLsb' 0 16))) ∧
    (w.extractLsb' 26 6 = 0b010000#6 → decode w = .ok (.mtc0 (w.extractLsb' 21 5)
      (w.extractLsb' 16 5).toFin (w.extractLsb' 11 5).toFin (w.extractLsb' 0 11))) ∧
    (w.extractLsb' 26 6 = 0b100011#6 → decode w = .ok (.lw (w.extractLsb' 21 5).toFin
      (w.extractLsb' 16 5).toFin (w.extractLsb' 0 16))) ∧
    (w.extractLsb' 26 6 ≠ 0b001101#6 → w.extractLsb' 26 6 ≠ 0b001111#6 →
      w.extractLsb' 26 6 ≠ 0b010000#6 → w.extractLsb' 26 6 ≠ 0b100011#6 →
      decode w = .error (.unrecognizedInstruction w) ∧
      ∀ (s : State) (r : Word32), ReadServed s s.cpu.pc r → order s.params.wordOrder r = w →
        step s = .fault (.unrecognizedInstruction w s.cpu.pc))

/-- 30_encoding.md R99: exactly the 60 other opcode values are rejected, whatever the other 26 bits
are, the all-zero word among them; a step that fetches one ends in the fault with the ordered word and
the pc. -/
def Obligations.UnrecognizedOpcodeIsFatal : Prop :=
  (∀ w : Word32, decode w = .error (.unrecognizedInstruction w) ↔
    w.extractLsb' 26 6 ∉ [0b001101#6, 0b001111#6, 0b010000#6, 0b100011#6]) ∧
  decode 0#32 = .error (.unrecognizedInstruction 0#32) ∧
  (∀ (s : State) (r w : Word32), ReadServed s s.cpu.pc r → w = order s.params.wordOrder r →
    w.extractLsb' 26 6 ∉ [0b001101#6, 0b001111#6, 0b010000#6, 0b100011#6] →
    step s = .fault (.unrecognizedInstruction w s.cpu.pc))

/-- 30_encoding.md R104: a word selects a row of the table exactly when it decodes to that row's
instruction; at most one row matches; a word no row matches is rejected. -/
def Obligations.OpcodeTableAgreesWithDecode : Prop :=
  ∀ w : Word32,
    (∀ r ∈ opcodeTable, r.selects w = true ↔ ∃ i, decode w = .ok i ∧ i.mnemonic = r.mnemonic) ∧
    (∀ r ∈ opcodeTable, ∀ q ∈ opcodeTable, r.selects w = true → q.selects w = true → r = q) ∧
    ((∀ r ∈ opcodeTable, r.selects w = false) → decode w = .error (.unrecognizedInstruction w))

/-- Decoding the word of any instruction gives it back: no bit of an encoding is dropped (R91 to R93,
R98). That an instruction has the fields its handler ignores is the model's choice (log entry 8). -/
def Obligations.DecodeOfEncode : Prop :=
  ∀ i : Instr, i.wellFormed = true → decode (encode i) = .ok i

/-- The other direction: an accepted word is the word of its instruction, so two accepted words with
one instruction are one word. For ORI and LW this follows from R90 to R93 and R98. For LUI and MTC0 it is
the model's choice (log entry 8, DESIGN CHOICE) and no rule of the spec: R98's records of these two do
not hold the bits R100 ignores, while `Instr` keeps them. -/
def Obligations.EncodeOfDecode : Prop :=
  ∀ (w : Word32) (i : Instr), decode w = .ok i → encode i = w

/-- 30_encoding.md R100: the ignored fields of LUI and MTC0 change no completed outcome, and turn no
completion into a fault (decision D21). -/
def Obligations.IgnoredFieldsHaveNoEffect : Prop :=
  (∀ (rs rs' : BitVec 5) (rt : GprIdx) (imm : BitVec 16) (s : State),
    exec (.lui rs rt imm) s = exec (.lui rs' rt imm) s) ∧
  (∀ (sub sub' : BitVec 5) (rt : GprIdx) (rd : Cp0Idx) (low low' : BitVec 11) (s t : State),
    exec (.mtc0 sub rt rd low) s = .next t → exec (.mtc0 sub' rt rd low') s = .next t) ∧
  (∀ (sub sub' : BitVec 5) (rt : GprIdx) (rd : Cp0Idx) (low low' : BitVec 11) (s : State)
    (register : Cp0RegName) (field : Cp0FieldName) (raw word : Word32) (pc : Word64),
    exec (.mtc0 sub rt rd low) s = .fault (.decodeError register field raw rd word pc) →
    exec (.mtc0 sub' rt rd low') s =
      .fault (.decodeError register field raw rd (encode (.mtc0 sub' rt rd low')) pc))

/-- Words written out from the formats of R92 and R93 decode to the instructions they stand for. -/
def Obligations.SampleWordsDecode : Prop :=
  decode 0b001101_00001_00010_0000000000001111#32 = .ok (.ori 1 2 0x000F#16) ∧
  decode 0b001111_00000_00001_1000000000000000#32 = .ok (.lui 0 1 0x8000#16) ∧
  decode 0b010000_00100_01000_01100_00000000000#32 = .ok (.mtc0 4 8 12 0) ∧
  decode 0b100011_00001_00011_1111111111111100#32 = .ok (.lw 1 3 0xFFFC#16)

/-! ### The step -/

/-- 40_engine.md R116, R111, R114: a step whose fetched word decodes to a well-formed instruction runs
`exec` of it on the machine after the fetch's one bus read, and then advances the pc by 4; a fault of
`exec` is the step's. -/
def Obligations.StepRunsDecodedInstruction : Prop :=
  ∀ (s : State) (r : Word32) (i : Instr), ReadServed s s.cpu.pc r →
    decode (order s.params.wordOrder r) = .ok i → i.wellFormed = true →
    (∀ t, exec i (afterFetch s) = .next t → step s = .next (setPc t (s.cpu.pc + 4#64))) ∧
    (∀ f, exec i (afterFetch s) = .fault f → step s = .fault f)

/-- 40_engine.md R111, 60_exceptions.md R177: the three faults of the fetch, in order, with payload
(decisions D8 and D11). -/
def Obligations.FetchFaultsInOrder : Prop :=
  ∀ s : State,
    (s.cpu.pc.toNat % 4 ≠ 0 → step s = .fault (.alignmentFault s.cpu.pc s.cpu.pc none)) ∧
    (s.cpu.pc.toNat % 4 = 0 → ¬ InKseg1 s.cpu.pc →
      step s = .fault (.translationFault s.cpu.pc s.cpu.pc none)) ∧
    (s.cpu.pc.toNat % 4 = 0 → InKseg1 s.cpu.pc →
      ∀ e, busAnswer s.bus (kseg1Offset s.cpu.pc) = .failure e →
        step s = .fault (.busFault (kseg1Offset s.cpu.pc) s.cpu.pc none e))

/-- 40_engine.md R114, 10_state.md R26: every completed step moves the pc by exactly 4, modulo 2^64
(decision D7). -/
def Obligations.CompletedStepAdvancesPcByFour : Prop :=
  ∀ s t : State, step s = .next t → t.cpu.pc = s.cpu.pc + 4#64

/-- 10_state.md R28, R29, R30, 20_memory.md R70: no step writes the floating-point storage, `hi`, `lo`,
`llbit`, a byte of memory or a parameter. -/
def Obligations.NoStepWritesUnusedStateOrMemory : Prop :=
  ∀ s t : State, step s = .next t → UnusedSame s t ∧ MemorySame s t

/-- 10_state.md R28, R29, R30: no step reads them either: with other values in them it goes the same
way and leaves those values. -/
def Obligations.NoStepReadsUnusedState : Prop :=
  ∀ (s : State) (fpr : Vector Word64 32) (fcr0 fcr31 : Word32) (hi lo : Word64) (llbit : Bool),
    step (setUnused fpr fcr0 fcr31 hi lo llbit s) =
      mapNext (setUnused fpr fcr0 fcr31 hi lo llbit) (step s)

/-- 10_state.md R48, 20_memory.md R67, R76, 42_cop0_move.md R142: what CP0 holds (mode, levels, masks,
endianness, everything) changes nothing of a step but CP0 itself: same stop, or next states equal
outside CP0 (decisions D15, D16, D17). -/
def Obligations.StepIgnoresCp0 : Prop :=
  ∀ (s : State) (c : Cp0),
    OutcomesRelated (fun t t' => t' = setCp0 t t'.cpu.cp0) (step s) (step (setCp0 s c))

/-- 10_state.md R25, 40_engine.md R118: an instruction writes at most one register: ORI, LUI and LW
their `rt` and no CP0 field, MTC0 one CP0 register and no GPR (index numbers: D1). -/
def Obligations.HandlerWritesOneDestination : Prop :=
  ∀ (i : Instr) (s t : State), exec i s = .next t →
    match i with
    | .ori _ rt _ => GprsSameExcept rt s t ∧ t.cpu.cp0 = s.cpu.cp0
    | .lui _ rt _ => GprsSameExcept rt s t ∧ t.cpu.cp0 = s.cpu.cp0
    | .mtc0 _ _ rd _ => (∀ j, readGpr t j = readGpr s j) ∧
        (t.cpu.cp0.status ≠ s.cpu.cp0.status → rd = 12) ∧
        (t.cpu.cp0.config ≠ s.cpu.cp0.config → rd = 16)
    | .lw _ rt _ => GprsSameExcept rt s t ∧ t.cpu.cp0 = s.cpu.cp0

/-- 20_memory.md R75, R77: a completed step asks the fetch's address, then, for LW alone, the data
address; nothing else. -/
def Obligations.StepAsksExactlyItsReads : Prop :=
  ∀ s t : State, step s = .next t →
    ∃ r i, ReadServed s s.cpu.pc r ∧ decode (order s.params.wordOrder r) = .ok i ∧
      match i with
      | .lw rs _ imm =>
          t.bus.reads = kseg1Offset (effectiveAddress s rs imm) :: kseg1Offset s.cpu.pc ::
            s.bus.reads ∧
          t.bus.answers = s.bus.answers.tail.tail
      | .ori _ _ _ => t.bus.reads = kseg1Offset s.cpu.pc :: s.bus.reads ∧
          t.bus.answers = s.bus.answers.tail
      | .lui _ _ _ => t.bus.reads = kseg1Offset s.cpu.pc :: s.bus.reads ∧
          t.bus.answers = s.bus.answers.tail
      | .mtc0 _ _ _ _ => t.bus.reads = kseg1Offset s.cpu.pc :: s.bus.reads ∧
          t.bus.answers = s.bus.answers.tail

/-- 70_reset_and_hazards.md R206: a step completes exactly when the fetch is served, the word decodes,
a LW's address is served and a CP0 write decodes. -/
def Obligations.StepCompletesExactlyWhenReady : Prop :=
  ∀ s : State, (∃ t, step s = .next t) ↔ StepReady s

/-- 00_scope.md R12: every state has a next state or a fault; the model refuses nothing. -/
def Obligations.EveryStepIsNextOrFault : Prop :=
  ∀ s : State, (∃ t, step s = .next t) ∨ (∃ f, step s = .fault f)

/-- 60_exceptions.md R170, 40_engine.md R119: every fault reports the pc of the faulting instruction,
and, when the word was fetched, that word. -/
def Obligations.FaultReportsPcAndWord : Prop :=
  ∀ (s : State) (f : Fault), step s = .fault f →
    faultPc f = s.cpu.pc ∧
    (∀ r, ReadServed s s.cpu.pc r → faultWord f = some (order s.params.wordOrder r)) ∧
    ((∀ r, ¬ ReadServed s s.cpu.pc r) → faultWord f = none)

/-! ### Reset -/

/-- 70_reset_and_hazards.md R201, R204: power-on reset's writes and nothing else, from any state; twice
is once. The values of the pc, Status and Config's `cu` are the spec's decisions D2, D3, D4, and that
the other registers keep their values is D5. -/
def Obligations.PowerOnResetWrites : Prop :=
  ∀ s : State,
    (powerOnReset s).cpu.pc = 0xFFFFFFFFBFC00000#64 ∧
    (powerOnReset s).cpu.cp0.config =
      { dataTransferPattern := .normal, endianness := .big, cu := false,
        kseg0CacheEnabled := s.params.resetK0ce } ∧
    decodeStatus 0x00000000#32 = .ok (powerOnReset s).cpu.cp0.status ∧
    (powerOnReset s).cpu.gpr = s.cpu.gpr ∧ UnusedSame s (powerOnReset s) ∧
    (powerOnReset s).bus = s.bus ∧
    powerOnReset (powerOnReset s) = powerOnReset s

/-- 70_reset_and_hazards.md R200, 10_state.md R51: the state after reset is power-on reset of the
creation state, every register of which is 0, under every value of the parameters. -/
def Obligations.ResetIsCreationThenPowerOn : Prop :=
  ∀ p : Params,
    State.resetWith p = powerOnReset (State.create p) ∧
    (∀ i, readGpr (State.create p) i = 0#64) ∧
    (∀ i : Fin 32, (State.create p).cpu.fpr[i] = 0#64) ∧
    (State.create p).cpu.pc = 0#64 ∧ (State.create p).cpu.hi = 0#64 ∧
    (State.create p).cpu.lo = 0#64 ∧ (State.create p).cpu.fcr0 = 0#32 ∧
    (State.create p).cpu.fcr31 = 0#32 ∧ (State.create p).cpu.llbit = false ∧
    decodeStatus 0#32 = .ok (State.create p).cpu.cp0.status ∧
    (State.create p).cpu.cp0.config =
      { dataTransferPattern := .normal, endianness := .little, cu := false,
        kseg0CacheEnabled := p.resetK0ce } ∧
    (State.create p).params = p

/-- 70_reset_and_hazards.md R202: the boot vector (decision D2) is a multiple of 4 and its first fetch
asks physical `0x1FC0_0000`. -/
def Obligations.BootVectorFetchAddress : Prop :=
  ∀ s : State, aligned (powerOnReset s).cpu.pc = true ∧
    translateAddr (powerOnReset s).cpu.pc = some 0x1FC00000#32

/-! ### Invariants -/

/-- The machine's invariant holds after reset, under every value of the parameters. -/
def Obligations.ResetMeetsInvariant : Prop := (∀ p : Params, Inv (State.resetWith p)) ∧ Inv State.reset

/-- Every completed step keeps the invariant: memory canonical, pc a multiple of 4 (10_state.md R27),
the cell of register 0 zero (R21), every address asked a multiple of 4 below 2^29 (20_memory.md R60,
R66). -/
def Obligations.StepKeepsInvariant : Prop := ∀ s t : State, Inv s → step s = .next t → Inv t

/-- So does every sequence of the host's moves: steps, resets and changes other bus agents make
(40_engine.md R123). -/
def Obligations.HostMovesKeepInvariant : Prop :=
  ∀ (ms : List HostMove) (s t : State), Inv s → drive ms s = .done t → Inv t

/-- After reset every GPR is the sign extension of its low 32 bits (95_test_vectors.md, the note after
Part 2.9). -/
def Obligations.ResetGprsSignExtended : Prop := ∀ p : Params, GprsSignExtended (State.resetWith p)

/-- Every completed step keeps every GPR the sign extension of its low 32 bits (same note). -/
def Obligations.StepKeepsGprsSignExtended : Prop :=
  ∀ s t : State, GprsSignExtended s → step s = .next t → GprsSignExtended t

/-- In such states a load address with selector `101` lies in kseg1, so the conflict C1 cannot arise
(same note; V-LW-16 is unreachable from reset). -/
def Obligations.SignExtendedBaseNeverMeetsConflictC1 : Prop :=
  ∀ (s : State) (rs : GprIdx) (imm : BitVec 16), GprsSignExtended s →
    segmentSelector (effectiveAddress s rs imm) = 0b101#3 → InKseg1 (effectiveAddress s rs imm)

/-! ### Runs, the driver and placed words -/

/-- 40_engine.md R122, R115: a run of `n` steps ends faulted exactly when, after fewer than `n`
completed steps, the next step faults; the state reported is the one before that step. -/
def Obligations.RunFaultsAtFirstFault : Prop :=
  ∀ (n : Nat) (s t : State) (f : Fault),
    run n s = .faulted f t ↔ ∃ k, k < n ∧ run k s = .done t ∧ step t = .fault f

/-- 60_exceptions.md R176: nothing follows a fault, whatever the host does (decision D26). -/
def Obligations.FaultIsFinal : Prop :=
  ∀ (ms ms' : List HostMove) (s t : State) (f : Fault),
    drive ms s = .faulted f t → drive (ms ++ ms') s = .faulted f t

/-- 10_state.md R27, 70_reset_and_hazards.md R207: after `n` completed steps the pc has advanced by
4·n, modulo 2^64: there is no other control flow. -/
def Obligations.RunAdvancesPcByFourPerStep : Prop :=
  ∀ (n : Nat) (s t : State), run n s = .done t → t.cpu.pc = s.cpu.pc + BitVec.ofNat 64 (4 * n)

/-- A word the host places where the pc points is the word the next fetch has after `Order`, under
both word orders and whatever answers are pending (20_memory.md R63; log entry 13). -/
def Obligations.PlacedWordIsFetched : Prop :=
  ∀ (s : State) (w : Word32), s.cpu.pc.toNat % 4 = 0 → InKseg1 s.cpu.pc →
    ∃ t, fetch (s.withFetchWord 32 w.toNat) = .ok (w, t) ∧ t.cpu = s.cpu
end

