-- ==== Sys2Proof/Laws/Encoding.lean ====
section
/-! SUPPORT. What each field of a word reads back from the two formats (30_encoding.md R92, R93), and
what an accepted word says of its opcode. -/

namespace Sys2Proof

section iType
variable (op : BitVec 6) (rs rt : BitVec 5) (imm : BitVec 16)

@[simp] theorem opcodeField_iType : opcodeField (iType op rs rt imm) = op := by
  refine BitVec.eq_of_getLsbD_eq fun k hk => ?_
  simp only [opcodeField, iType, BitVec.getLsbD_extractLsb',
    BitVec.getLsbD_append]
  interval_cases k <;> simp

@[simp] theorem bits25to21_iType : bits25to21 (iType op rs rt imm) = rs := by
  refine BitVec.eq_of_getLsbD_eq fun k hk => ?_
  simp only [bits25to21, iType, BitVec.getLsbD_extractLsb',
    BitVec.getLsbD_append]
  interval_cases k <;> simp

theorem rtBits_iType : (iType op rs rt imm).extractLsb' 16 5 = rt := by
  refine BitVec.eq_of_getLsbD_eq fun k hk => ?_
  simp only [iType, BitVec.getLsbD_extractLsb', BitVec.getLsbD_append]
  interval_cases k <;> simp

@[simp] theorem immField_iType : immField (iType op rs rt imm) = imm := by
  refine BitVec.eq_of_getLsbD_eq fun k hk => ?_
  simp only [immField, iType, BitVec.getLsbD_extractLsb',
    BitVec.getLsbD_append]
  interval_cases k <;> simp

@[simp] theorem rsField_iType : rsField (iType op rs rt imm) = rs.toFin := by simp [rsField]

@[simp] theorem rtField_iType : rtField (iType op rs rt imm) = rt.toFin := by
  simp [rtField, rtBits_iType]
end iType

section cop0Type
variable (op : BitVec 6) (sub rt rd : BitVec 5) (low : BitVec 11)

@[simp] theorem opcodeField_cop0Type : opcodeField (cop0Type op sub rt rd low) = op := by
  refine BitVec.eq_of_getLsbD_eq fun k hk => ?_
  simp only [opcodeField, cop0Type, BitVec.getLsbD_extractLsb',
    BitVec.getLsbD_append]
  interval_cases k <;> simp

@[simp] theorem bits25to21_cop0Type : bits25to21 (cop0Type op sub rt rd low) = sub := by
  refine BitVec.eq_of_getLsbD_eq fun k hk => ?_
  simp only [bits25to21, cop0Type, BitVec.getLsbD_extractLsb',
    BitVec.getLsbD_append]
  interval_cases k <;> simp

@[simp] theorem rtField_cop0Type : rtField (cop0Type op sub rt rd low) = rt.toFin := by
  have : (cop0Type op sub rt rd low).extractLsb' 16 5 = rt := by
    refine BitVec.eq_of_getLsbD_eq fun k hk => ?_
    simp only [cop0Type, BitVec.getLsbD_extractLsb',
      BitVec.getLsbD_append]
    interval_cases k <;> simp
  simp [rtField, this]

@[simp] theorem rdField_cop0Type : rdField (cop0Type op sub rt rd low) = rd.toFin := by
  have : (cop0Type op sub rt rd low).extractLsb' 11 5 = rd := by
    refine BitVec.eq_of_getLsbD_eq fun k hk => ?_
    simp only [cop0Type, BitVec.getLsbD_extractLsb',
      BitVec.getLsbD_append]
    interval_cases k <;> simp
  simp [rdField, this]

@[simp] theorem low11Field_cop0Type : low11Field (cop0Type op sub rt rd low) = low := by
  refine BitVec.eq_of_getLsbD_eq fun k hk => ?_
  simp only [low11Field, cop0Type, BitVec.getLsbD_extractLsb',
    BitVec.getLsbD_append]
  interval_cases k <;> simp
end cop0Type

@[simp] theorem regBits_toFin (r : Fin 32) : (regBits r).toFin = r := rfl

/-- Any word is its opcode and fields put together in the I-type format. -/
theorem iType_fields (w : Word32) :
    iType (opcodeField w) (bits25to21 w) (regBits (rtField w)) (immField w) = w := by
  have h : regBits (rtField w) = w.extractLsb' 16 5 := rfl
  rw [h]
  apply BitVec.eq_of_getLsbD_eq
  intro k hk
  simp only [iType, opcodeField, bits25to21, immField, BitVec.getLsbD_append,
    BitVec.getLsbD_extractLsb']
  interval_cases k <;> simp

/-- Any word is its opcode and fields put together in the COP0 move format. -/
theorem cop0Type_fields (w : Word32) :
    cop0Type (opcodeField w) (bits25to21 w) (regBits (rtField w)) (regBits (rdField w))
      (low11Field w) = w := by
  have h : regBits (rtField w) = w.extractLsb' 16 5 := rfl
  have h' : regBits (rdField w) = w.extractLsb' 11 5 := rfl
  rw [h, h']
  apply BitVec.eq_of_getLsbD_eq
  intro k hk
  simp only [cop0Type, opcodeField, bits25to21, low11Field, BitVec.getLsbD_append,
    BitVec.getLsbD_extractLsb']
  interval_cases k <;> simp

/-- What decoding accepts: one case per modelled opcode. -/
theorem decode_ok_cases {w : Word32} {i : Instr} (h : decode w = .ok i) :
    (opcodeField w = opcodeOri ∧ i = .ori (rsField w) (rtField w) (immField w)) ∨
    (opcodeField w = opcodeLui ∧ i = .lui (bits25to21 w) (rtField w) (immField w)) ∨
    (opcodeField w = opcodeMtc0 ∧
      i = .mtc0 (bits25to21 w) (rtField w) (rdField w) (low11Field w)) ∨
    (opcodeField w = opcodeLw ∧ i = .lw (rsField w) (rtField w) (immField w)) := by
  unfold decode at h
  split at h
  · exact .inl ⟨‹_›, by simpa using h.symm⟩
  · split at h
    · exact .inr (.inl ⟨‹_›, by simpa using h.symm⟩)
    · split at h
      · exact .inr (.inr (.inl ⟨‹_›, by simpa using h.symm⟩))
      · split at h
        · exact .inr (.inr (.inr ⟨‹_›, by simpa using h.symm⟩))
        · cases h

/-- What decoding rejects, it rejects by the word itself. -/
theorem decode_error_word {w : Word32} {e : DecodeReject} (h : decode w = .error e) :
    e = .unrecognizedInstruction w := by
  unfold decode at h
  repeat' split at h
  all_goals cases h
  rfl

end Sys2Proof
end

