-- ==== Sys2Proof/Laws/Flags.lean ====
section
/-! SUPPORT. The CP0 bit-field maps: what each placed bit reads as, when a decode succeeds, and what a
bank write can do. -/

namespace Sys2Proof.Machine

@[simp] theorem getLsbD_bitAt (k j : Nat) (b : Bool) :
    (bitAt k b).getLsbD j = (decide (j = k) && decide (j < 32) && b) := by
  unfold bitAt
  cases b
  · simp
  · simp only [if_true, BitVec.getLsbD_shiftLeft, BitVec.getLsbD_one, Bool.and_true]
    by_cases h : j < 32 <;> by_cases e : j = k <;> simp [h, e]
    omega

@[simp] theorem getLsbD_encodeKsu (k : Ksu) (j : Nat) :
    (encodeKsu k).getLsbD j =
      (decide (j = 3) && decide (k = .supervisor) || decide (j = 4) && decide (k = .user)) := by
  by_cases h : j < 32
  · cases k <;> simp only [encodeKsu] <;> interval_cases j <;> decide
  · rw [BitVec.getLsbD_of_ge _ _ (not_lt.1 h)]
    simp [show j ≠ 3 by omega, show j ≠ 4 by omega]

/-- The two values Config bits 27:24 may take. -/
theorem decodeDataTransferPattern_isSome (f : BitVec 4) :
    (decodeDataTransferPattern f).isSome = true ↔ f = 0#4 ∨ f = 6#4 := by
  unfold decodeDataTransferPattern
  split
  · simp_all
  · split <;> simp_all

/-- The three values Status bits 4:3 may take. -/
theorem decodeKsu_isSome (m : BitVec 2) : (decodeKsu m).isSome = true ↔ m ≠ 0b11#2 := by
  revert m
  decide

/-- A failed Config decode reports the word. -/
theorem decodeConfig_error {w : Word32} {e : Cp0DecodeError} (h : decodeConfig w = .error e) :
    e = ⟨.config, .dataTransferPattern, w⟩ := by
  unfold decodeConfig at h
  split at h
  · simpa using h.symm
  · cases h

/-- A failed Status decode reports the word. -/
theorem decodeStatus_error {w : Word32} {e : Cp0DecodeError} (h : decodeStatus w = .error e) :
    e = ⟨.status, .ksu, w⟩ := by
  unfold decodeStatus at h
  split at h
  · simpa using h.symm
  · cases h

/-- Everything a bank write can do: replace Status, replace Config, or nothing. -/
theorem writeReg_ok_cases {c c' : Cp0} {index : Cp0Idx} {data : Word32}
    (h : writeReg c index data = .ok c') :
    (index = statusIndex ∧ ∃ st, decodeStatus data = .ok st ∧ c' = { c with status := st }) ∨
    (index = configIndex ∧ ∃ cf, decodeConfig data = .ok cf ∧ c' = { c with config := cf }) ∨
    (index ≠ statusIndex ∧ index ≠ configIndex ∧ c' = c) := by
  unfold writeReg at h
  split at h
  · rename_i hs
    cases hd : decodeStatus data with
    | error e => simp [hd, Except.map] at h
    | ok st => exact .inl ⟨hs, st, rfl, by simpa [hd, Except.map] using h.symm⟩
  · split at h
    · rename_i hc
      cases hd : decodeConfig data with
      | error e => simp [hd, Except.map] at h
      | ok cf => exact .inr (.inl ⟨hc, cf, rfl, by simpa [hd, Except.map] using h.symm⟩)
    · exact .inr (.inr ⟨‹_›, ‹_›, by simpa using h.symm⟩)

/-- Whether a bank write succeeds does not depend on the bank, and a failure is the same. -/
theorem writeReg_error_bank {c : Cp0} (c' : Cp0) {index : Cp0Idx} {data : Word32}
    {e : Cp0DecodeError} (h : writeReg c index data = .error e) :
    writeReg c' index data = .error e := by
  unfold writeReg at h ⊢
  split at h
  · cases hd : decodeStatus data <;> simp_all [Except.map]
  · split at h
    · cases hd : decodeConfig data <;> simp_all [Except.map]
    · cases h

end Sys2Proof.Machine
end

