-- ==== Sys2Proof/Laws/State.lean ====
section
/-! SUPPORT. One lemma per field per update of the state, so that no later proof unfolds a record
update. -/

namespace Sys2Proof.Machine

section setPc
variable (s : State) (v : Word64)
@[simp] theorem setPc_pc : (setPc s v).cpu.pc = v := rfl
@[simp] theorem setPc_gpr : (setPc s v).cpu.gpr = s.cpu.gpr := rfl
@[simp] theorem setPc_fpr : (setPc s v).cpu.fpr = s.cpu.fpr := rfl
@[simp] theorem setPc_fcr0 : (setPc s v).cpu.fcr0 = s.cpu.fcr0 := rfl
@[simp] theorem setPc_fcr31 : (setPc s v).cpu.fcr31 = s.cpu.fcr31 := rfl
@[simp] theorem setPc_hi : (setPc s v).cpu.hi = s.cpu.hi := rfl
@[simp] theorem setPc_lo : (setPc s v).cpu.lo = s.cpu.lo := rfl
@[simp] theorem setPc_llbit : (setPc s v).cpu.llbit = s.cpu.llbit := rfl
@[simp] theorem setPc_cp0 : (setPc s v).cpu.cp0 = s.cpu.cp0 := rfl
@[simp] theorem setPc_bus : (setPc s v).bus = s.bus := rfl
@[simp] theorem setPc_params : (setPc s v).params = s.params := rfl
end setPc

section setCp0
variable (s : State) (c : Cp0)
@[simp] theorem setCp0_cp0 : (setCp0 s c).cpu.cp0 = c := rfl
@[simp] theorem setCp0_gpr : (setCp0 s c).cpu.gpr = s.cpu.gpr := rfl
@[simp] theorem setCp0_pc : (setCp0 s c).cpu.pc = s.cpu.pc := rfl
@[simp] theorem setCp0_fpr : (setCp0 s c).cpu.fpr = s.cpu.fpr := rfl
@[simp] theorem setCp0_fcr0 : (setCp0 s c).cpu.fcr0 = s.cpu.fcr0 := rfl
@[simp] theorem setCp0_fcr31 : (setCp0 s c).cpu.fcr31 = s.cpu.fcr31 := rfl
@[simp] theorem setCp0_hi : (setCp0 s c).cpu.hi = s.cpu.hi := rfl
@[simp] theorem setCp0_lo : (setCp0 s c).cpu.lo = s.cpu.lo := rfl
@[simp] theorem setCp0_llbit : (setCp0 s c).cpu.llbit = s.cpu.llbit := rfl
@[simp] theorem setCp0_bus : (setCp0 s c).bus = s.bus := rfl
@[simp] theorem setCp0_params : (setCp0 s c).params = s.params := rfl
end setCp0

section setBus
variable (s : State) (b : Bus)
@[simp] theorem setBus_bus : (setBus s b).bus = b := rfl
@[simp] theorem setBus_cpu : (setBus s b).cpu = s.cpu := rfl
@[simp] theorem setBus_params : (setBus s b).params = s.params := rfl
end setBus

section writeGpr
variable (s : State) (i : GprIdx) (v : Word64)
@[simp] theorem writeGpr_pc : (writeGpr s i v).cpu.pc = s.cpu.pc := by unfold writeGpr; split <;> rfl
@[simp] theorem writeGpr_fpr : (writeGpr s i v).cpu.fpr = s.cpu.fpr := by
  unfold writeGpr; split <;> rfl
@[simp] theorem writeGpr_fcr0 : (writeGpr s i v).cpu.fcr0 = s.cpu.fcr0 := by
  unfold writeGpr; split <;> rfl
@[simp] theorem writeGpr_fcr31 : (writeGpr s i v).cpu.fcr31 = s.cpu.fcr31 := by
  unfold writeGpr; split <;> rfl
@[simp] theorem writeGpr_hi : (writeGpr s i v).cpu.hi = s.cpu.hi := by unfold writeGpr; split <;> rfl
@[simp] theorem writeGpr_lo : (writeGpr s i v).cpu.lo = s.cpu.lo := by unfold writeGpr; split <;> rfl
@[simp] theorem writeGpr_llbit : (writeGpr s i v).cpu.llbit = s.cpu.llbit := by
  unfold writeGpr; split <;> rfl
@[simp] theorem writeGpr_cp0 : (writeGpr s i v).cpu.cp0 = s.cpu.cp0 := by
  unfold writeGpr; split <;> rfl
@[simp] theorem writeGpr_bus : (writeGpr s i v).bus = s.bus := by unfold writeGpr; split <;> rfl
@[simp] theorem writeGpr_params : (writeGpr s i v).params = s.params := by
  unfold writeGpr; split <;> rfl
end writeGpr

section readGpr
variable (s : State) (i : GprIdx)
@[simp] theorem readGpr_setPc (v : Word64) : readGpr (setPc s v) i = readGpr s i := rfl
@[simp] theorem readGpr_setCp0 (c : Cp0) : readGpr (setCp0 s c) i = readGpr s i := rfl
@[simp] theorem readGpr_setBus (b : Bus) : readGpr (setBus s b) i = readGpr s i := rfl

/-- A written register reads back. -/
theorem readGpr_writeGpr_self (v : Word64) (h : i ≠ 0) : readGpr (writeGpr s i v) i = v := by
  simp [readGpr, writeGpr, h]

/-- A write leaves the other registers. -/
theorem readGpr_writeGpr_ne (j : GprIdx) (v : Word64) (h : j ≠ i) :
    readGpr (writeGpr s i v) j = readGpr s j := by
  unfold readGpr writeGpr
  split
  · rfl
  · split
    · rfl
    · exact Vector.getElem_set_ne i.isLt j.isLt (fun e => h (Fin.ext e.symm))
end readGpr

section bus
variable (b : Bus) (pa : PAddr)
@[simp] theorem busAfterRead_mem : (busAfterRead b pa).mem = b.mem := rfl
@[simp] theorem busAfterRead_answers : (busAfterRead b pa).answers = b.answers.tail := rfl
@[simp] theorem busAfterRead_reads : (busAfterRead b pa).reads = pa :: b.reads := rfl
end bus

end Sys2Proof.Machine
end

