-- ==== Sys2Proof/Laws/Ops.lean ====
section
/-! SUPPORT. What each shared operation can do, said once. -/

namespace Sys2Proof.Machine

/-- Bits 1:0 are 0 exactly for the multiples of 4. -/
theorem aligned_iff (va : Word64) : aligned va = true ↔ va.toNat % 4 = 0 := by
  unfold aligned
  rw [beq_iff_eq, ← BitVec.toNat_inj]
  simp [BitVec.extractLsb'_toNat]

/-- A translated address has selector `101` and all-ones upper half, and its offset is the result. -/
theorem translateAddr_some {va : Word64} {pa : PAddr} (h : translateAddr va = some pa) :
    segmentSelector va = 0b101#3 ∧ va.extractLsb' 32 32 = 0xFFFFFFFF#32 ∧
      pa = (va - kseg1Base).setWidth 32 := by
  unfold translateAddr at h
  split at h
  · cases h
  · split at h
    · cases h
    · exact ⟨not_not.1 ‹_›, not_not.1 ‹_›, by simpa using h.symm⟩

/-- `Order` is its own inverse. -/
theorem order_order (o : WordOrder) (w : Word32) : order o (order o w) = w := by
  cases o
  · rfl
  · refine BitVec.eq_of_getLsbD_eq fun k hk => ?_
    simp only [order, BitVec.getLsbD_append, BitVec.getLsbD_extractLsb']
    interval_cases k <;> simp

/-- The Interconnect answers a placed word, and one read uses up nothing else. -/
theorem busAnswer_of_answers {b : Bus} {a : BusAnswer} {l : List BusAnswer} (pa : PAddr)
    (h : b.answers = a :: l) : busAnswer b pa = a := by
  simp [busAnswer, h]

/-- With no answer pending the map answers. -/
theorem busAnswer_of_map {b : Bus} {pa : PAddr} {w : Word32} (h : b.answers = [])
    (hm : b.mem.readWord pa = some w) : busAnswer b pa = .word w := by
  simp [busAnswer, h, hm]

/-- A read that succeeds: aligned, translated, answered by a word, ordered; one address asked. -/
theorem memRead_ok_cases {va : Word64} {word : Option Word32} {s t : State} {w : Word32}
    (h : memRead va word s = .ok (w, t)) :
    ∃ pa r, aligned va = true ∧ translateAddr va = some pa ∧ busAnswer s.bus pa = .word r ∧
      w = order s.params.wordOrder r ∧ t = setBus s (busAfterRead s.bus pa) := by
  unfold memRead at h
  split at h
  · split at h
    · cases h
    · split at h
      · cases h
      · simp only [Except.ok.injEq, Prod.mk.injEq] at h
        exact ⟨_, _, ‹_›, ‹_›, ‹_›, h.1.symm, h.2.symm⟩
  · cases h

/-- A read succeeds when it is aligned, translated and answered by a word. -/
theorem memRead_ok {va : Word64} {pa : PAddr} {r : Word32} {s : State} (word : Option Word32)
    (ha : aligned va = true) (ht : translateAddr va = some pa) (hb : busAnswer s.bus pa = .word r) :
    memRead va word s = .ok (order s.params.wordOrder r, setBus s (busAfterRead s.bus pa)) := by
  simp [memRead, ha, ht, hb]

/-- A read that fails, in the order of the checks (20_memory.md R68). -/
theorem memRead_error_cases {va : Word64} {word : Option Word32} {s : State} {f : Fault}
    (h : memRead va word s = .error f) :
    (aligned va = false ∧ f = .alignmentFault va s.cpu.pc word) ∨
    (aligned va = true ∧ translateAddr va = none ∧ f = .translationFault va s.cpu.pc word) ∨
    (aligned va = true ∧ ∃ pa e, translateAddr va = some pa ∧ busAnswer s.bus pa = .failure e ∧
      f = .busFault pa s.cpu.pc word e) := by
  unfold memRead at h
  split at h
  · split at h
    · exact .inr (.inl ⟨‹_›, ‹_›, by simpa using h.symm⟩)
    · split at h
      · exact .inr (.inr ⟨‹_›, _, _, ‹_›, ‹_›, by simpa using h.symm⟩)
      · cases h
  · rename_i ha
    exact .inl ⟨by simpa using ha, by simpa using h.symm⟩

/-- A CP0 write on the machine that completes replaces the bank alone. -/
theorem writeCp0_next_cases {index : Cp0Idx} {data word : Word32} {s t : State}
    (h : writeCp0 index data word s = .next t) :
    ∃ c, writeReg s.cpu.cp0 index data = .ok c ∧ t = setCp0 s c := by
  unfold writeCp0 at h
  split at h
  · exact ⟨_, ‹_›, by simpa using h.symm⟩
  · cases h

/-- A CP0 write that faults reports the failed decode. -/
theorem writeCp0_fault_cases {index : Cp0Idx} {data word : Word32} {s : State} {f : Fault}
    (h : writeCp0 index data word s = .fault f) :
    ∃ e, writeReg s.cpu.cp0 index data = .error e ∧
      f = .decodeError e.register e.field e.raw index word s.cpu.pc := by
  unfold writeCp0 at h
  split at h
  · cases h
  · exact ⟨_, ‹_›, by simpa using h.symm⟩

/-- A fetched instruction: a successful read at the pc whose word decodes. -/
theorem fetchInstr_ok_cases {s s1 : State} {i : Instr} (h : fetchInstr s = .ok (i, s1)) :
    ∃ w, fetch s = .ok (w, s1) ∧ decode w = .ok i := by
  unfold fetchInstr at h
  split at h
  · cases h
  · split at h
    · cases h
    · simp only [Except.ok.injEq, Prod.mk.injEq] at h
      obtain ⟨rfl, rfl⟩ := h
      exact ⟨_, ‹_›, ‹_›⟩

/-- A fetch and decode that fails: the read's fault, or an unrecognized word. -/
theorem fetchInstr_error_cases {s : State} {f : Fault} (h : fetchInstr s = .error f) :
    fetch s = .error f ∨
    ∃ w s1, fetch s = .ok (w, s1) ∧ decode w = .error (.unrecognizedInstruction w) ∧
      f = .unrecognizedInstruction w s.cpu.pc := by
  unfold fetchInstr at h
  split at h
  · rename_i g hf
    exact .inl (by rw [hf]; simpa using h)
  · rename_i w s1 hf
    split at h
    · rename_i word hd
      obtain rfl : word = w := by simpa using decode_error_word hd
      exact .inr ⟨_, _, hf, hd, by simpa using h.symm⟩
    · cases h

end Sys2Proof.Machine
end

