-- ==== Sys2Proof/Laws/Exec.lean ====
section
/-! SUPPORT. What each instruction's meaning and one step can do, said once. -/

namespace Sys2Proof.Machine

/-- A load that completes: the read succeeded, and its word is written sign-extended. -/
theorem execLw_next_cases {rs rt : GprIdx} {imm : BitVec 16} {s t : State}
    (h : execLw rs rt imm s = .next t) :
    ∃ r s1, memRead (effectiveAddress s rs imm) (some (encode (.lw rs rt imm))) s = .ok (r, s1) ∧
      t = writeGpr s1 rt (loadedValue r) := by
  unfold execLw at h
  split at h
  · cases h
  · exact ⟨_, _, ‹_›, by simpa using h.symm⟩

/-- A load that faults has the read's fault. -/
theorem execLw_fault_cases {rs rt : GprIdx} {imm : BitVec 16} {s : State} {f : Fault}
    (h : execLw rs rt imm s = .fault f) :
    memRead (effectiveAddress s rs imm) (some (encode (.lw rs rt imm))) s = .error f := by
  unfold execLw at h
  split at h
  · simp only [Host.Outcome.fault.injEq] at h
    exact h ▸ ‹_›
  · cases h

/-- Everything `exec` can change: one GPR, the CP0 bank, or, for a load, one GPR after one aligned bus
read. -/
theorem exec_next_cases {i : Instr} {s t : State} (h : exec i s = .next t) :
    (∃ rt v, t = writeGpr s rt v) ∨ (∃ c, t = setCp0 s c) ∨
    (∃ rs rt imm v pa, i = .lw rs rt imm ∧ aligned (effectiveAddress s rs imm) = true ∧
      translateAddr (effectiveAddress s rs imm) = some pa ∧
      t = writeGpr (setBus s (busAfterRead s.bus pa)) rt v) := by
  cases i with
  | ori rs rt imm => exact .inl ⟨rt, _, by simpa [exec, execOri] using h.symm⟩
  | lui rs rt imm => exact .inl ⟨rt, _, by simpa [exec, execLui] using h.symm⟩
  | mtc0 sub rt rd low =>
    obtain ⟨c, -, rfl⟩ := writeCp0_next_cases (show writeCp0 _ _ _ s = .next t from h)
    exact .inr (.inl ⟨c, rfl⟩)
  | lw rs rt imm =>
    obtain ⟨r, s1, hm, rfl⟩ := execLw_next_cases (show execLw rs rt imm s = .next t from h)
    obtain ⟨pa, _, ha, ht, _, _, rfl⟩ := memRead_ok_cases hm
    exact .inr (.inr ⟨rs, rt, imm, _, pa, rfl, ha, ht, rfl⟩)

/-- A step that completes: fetch and decode, execute, advance (40_engine.md R116). -/
theorem step_next_cases {s t : State} (h : step s = .next t) :
    ∃ i s1 t1, fetchInstr s = .ok (i, s1) ∧ exec i s1 = .next t1 ∧ t = advance t1 := by
  unfold step at h
  split at h
  · cases h
  · rename_i i s1 hf
    cases he : exec i s1 <;> simp only [he, advanceOutcome] at h
    · exact ⟨i, s1, _, hf, he, by simpa using h.symm⟩
    · cases h
    · cases h

/-- A step that faults: in fetch or decode, or in execute. -/
theorem step_fault_cases {s : State} {f : Fault} (h : step s = .fault f) :
    fetchInstr s = .error f ∨ ∃ i s1, fetchInstr s = .ok (i, s1) ∧ exec i s1 = .fault f := by
  unfold step at h
  split at h
  · rename_i g hf
    exact .inl (by rw [hf]; simpa using h)
  · rename_i i s1 hf
    cases he : exec i s1 <;> simp only [he, advanceOutcome] at h
    · cases h
    · exact .inr ⟨i, s1, hf, by rw [he]; simpa using h⟩
    · cases h

end Sys2Proof.Machine
end

