-- ==== Sys2Proof/Laws/Memory.lean ====
section
/-! SUPPORT. The laws of the fixed map: reading after writing, and that every operation keeps the
canonical form. -/

namespace Sys2Proof.Machine

/-- A byte written reads back; every other address reads as before. -/
theorem Memory.read_write (m : Memory) (x y : Nat) (v : Byte) :
    (m.write x v).read y = if x = y then some v else m.read y := by
  induction m with
  | nil => simp [Memory.write, Memory.read]
  | cons c m ih =>
    obtain ⟨a, w⟩ := c
    by_cases hlt : x < a
    · simp [Memory.write, hlt, Memory.read]
    · by_cases hax : a = x
      · subst hax
        simp only [Memory.write, lt_irrefl, if_false, if_true, Memory.read]
        split <;> simp_all
      · simp only [Memory.write, hlt, hax, if_false, Memory.read, ih]
        by_cases hay : a = y
        · have : x ≠ y := fun e => hax (hay.trans e.symm)
          simp [hay, this]
        · simp [hay]

/-- An erased address is unbacked; every other address reads as before. -/
theorem Memory.read_erase (m : Memory) (x y : Nat) :
    (m.erase x).read y = if x = y then none else m.read y := by
  induction m with
  | nil => simp [Memory.erase, Memory.read]
  | cons c m ih =>
    obtain ⟨a, w⟩ := c
    by_cases hax : a = x
    · subst hax
      simp only [Memory.erase, if_true, ih, Memory.read]
      split <;> simp_all
    · simp only [Memory.erase, hax, if_false, Memory.read, ih]
      by_cases hay : a = y
      · have : x ≠ y := fun e => hax (hay.trans e.symm)
        simp [hay, this]
      · simp [hay]

/-- The cells after a write: the written one, or one that was there. -/
theorem Memory.mem_write {m : Memory} {x : Nat} {v : Byte} {c : Host.Cell} (h : c ∈ m.write x v) :
    c = (x, v) ∨ c ∈ m := by
  induction m with
  | nil => simpa [Memory.write] using h
  | cons d m ih =>
    obtain ⟨a, w⟩ := d
    simp only [Memory.write] at h
    split at h
    · simpa using h
    · split at h
      · simp only [List.mem_cons] at h ⊢
        tauto
      · simp only [List.mem_cons] at h ⊢
        rcases h with h | h
        · exact .inr (.inl h)
        · rcases ih h with h | h
          · exact .inl h
          · exact .inr (.inr h)

theorem Memory.mem_erase {m : Memory} {x : Nat} {c : Host.Cell} (h : c ∈ m.erase x) : c ∈ m := by
  induction m with
  | nil => simp [Memory.erase] at h
  | cons d m ih =>
    obtain ⟨a, w⟩ := d
    simp only [Memory.erase] at h
    split at h
    · exact .tail _ (ih h)
    · rcases List.mem_cons.1 h with h | h
      · exact h ▸ .head _
      · exact .tail _ (ih h)

/-- Writing a byte keeps the canonical form. -/
theorem Memory.wf_write {m : Memory} {x : Nat} {v : Byte} (hm : m.wf) (hx : x < 0x100000000) :
    (m.write x v).wf := by
  obtain ⟨hs, hb⟩ := hm
  refine ⟨?_, ?_⟩
  · induction m with
    | nil => simp [Memory.write]
    | cons d m ih =>
      obtain ⟨a, w⟩ := d
      obtain ⟨hd, hs'⟩ := List.pairwise_cons.1 hs
      simp only [Memory.write]
      split
      · rename_i hlt
        refine List.pairwise_cons.2 ⟨fun c hc => ?_, hs⟩
        rcases List.mem_cons.1 hc with hc | hc
        · exact hc ▸ hlt
        · exact lt_trans hlt (hd c hc)
      · split
        · rename_i hax
          exact List.pairwise_cons.2 ⟨fun c hc => hax ▸ hd c hc, hs'⟩
        · rename_i hlt hax
          refine List.pairwise_cons.2 ⟨fun c hc => ?_, ih hs' (fun c hc => hb c (.tail _ hc))⟩
          rcases Memory.mem_write hc with hc | hc
          · subst hc
            exact lt_of_le_of_ne (not_lt.1 hlt) hax
          · exact hd c hc
  · intro c hc
    rcases Memory.mem_write hc with hc | hc
    · exact hc ▸ hx
    · exact hb c hc

/-- Making an address unbacked keeps the canonical form. -/
theorem Memory.wf_erase {m : Memory} {x : Nat} (hm : m.wf) : (m.erase x).wf := by
  obtain ⟨hs, hb⟩ := hm
  refine ⟨?_, fun c hc => hb c (Memory.mem_erase hc)⟩
  induction m with
  | nil => simp [Memory.erase]
  | cons d m ih =>
    obtain ⟨a, w⟩ := d
    obtain ⟨hd, hs'⟩ := List.pairwise_cons.1 hs
    have ih' := ih hs' (fun c hc => hb c (.tail _ hc))
    simp only [Memory.erase]
    split
    · exact ih'
    · exact List.pairwise_cons.2 ⟨fun c hc => hd c (Memory.mem_erase hc), ih'⟩

/-- Writing a word at an aligned address keeps the canonical form. -/
theorem Memory.wf_writeWord {m : Memory} {pa : PAddr} {w : Word32} (hm : m.wf)
    (hpa : pa.toNat % 4 = 0) : (m.writeWord pa w).wf := by
  have := pa.isLt
  unfold Memory.writeWord
  exact Memory.wf_write (Memory.wf_write (Memory.wf_write (Memory.wf_write hm (by omega))
    (by omega)) (by omega)) (by omega)

/-- The four bytes of a word, put together again, are the word. -/
theorem mapByte_append (w : Word32) :
    mapByte w 0 ++ mapByte w 1 ++ mapByte w 2 ++ mapByte w 3 = w := by
  apply BitVec.eq_of_getLsbD_eq
  intro k hk
  simp only [mapByte, BitVec.getLsbD_append, BitVec.getLsbD_extractLsb']
  interval_cases k <;> simp

/-- A word written is the word the map answers. -/
theorem Memory.readWord_writeWord (m : Memory) (pa : PAddr) (w : Word32) :
    (m.writeWord pa w).readWord pa = some w := by
  simp [Memory.readWord, Memory.writeWord, Memory.read_write, mapByte_append]

/-- At reset nothing is listed, which is canonical. -/
theorem State.resetWith_mem_wf (p : Params) : (State.resetWith p).bus.mem.wf := by
  simp [State.resetWith, Bus.empty, Memory.wf]

/-- A bus read keeps the map, so it keeps the canonical form. -/
theorem busAfterRead_wf {b : Bus} (h : b.mem.wf) (pa : PAddr) : (busAfterRead b pa).mem.wf := h

/-- Placing a word for the next read, at an aligned address, keeps the canonical form. -/
theorem placeBusWord_wf {b : Bus} (h : b.mem.wf) {pa : PAddr} (hpa : pa.toNat % 4 = 0) (w : Word32) :
    (placeBusWord b pa w).mem.wf := by
  unfold placeBusWord
  split
  · exact Memory.wf_writeWord h hpa
  · exact h

end Sys2Proof.Machine
end

