-- ==== Sys2Proof/Laws/Operands.lean ====
section
/-! SUPPORT. The operand forms and the four meanings as equations, so that a proof rewrites with them
and unfolds nothing. -/

namespace Sys2Proof.Machine

theorem oriImmediate_eq (imm : BitVec 16) : oriImmediate imm = imm.setWidth 64 := rfl

theorem luiImmediate_eq (imm : BitVec 16) :
    luiImmediate imm = (imm.setWidth 32 <<< 16).signExtend 64 := rfl

theorem effectiveAddress_eq (s : State) (rs : GprIdx) (imm : BitVec 16) :
    effectiveAddress s rs imm = readGpr s rs + imm.signExtend 64 := rfl

theorem mtc0Operand_eq (s : State) (rt : GprIdx) :
    mtc0Operand s rt = (readGpr s rt).setWidth 32 := rfl

theorem loadedValue_eq (r : Word32) : loadedValue r = r.signExtend 64 := rfl

theorem exec_ori (rs rt : GprIdx) (imm : BitVec 16) (s : State) :
    exec (.ori rs rt imm) s = .next (writeGpr s rt (readGpr s rs ||| oriImmediate imm)) := rfl

theorem exec_lui (rs : BitVec 5) (rt : GprIdx) (imm : BitVec 16) (s : State) :
    exec (.lui rs rt imm) s = .next (writeGpr s rt (luiImmediate imm)) := rfl

theorem exec_mtc0 (sub : BitVec 5) (rt : GprIdx) (rd : Cp0Idx) (low : BitVec 11) (s : State) :
    exec (.mtc0 sub rt rd low) s =
      writeCp0 rd (mtc0Operand s rt) (encode (.mtc0 sub rt rd low)) s := rfl

theorem exec_lw (rs rt : GprIdx) (imm : BitVec 16) (s : State) :
    exec (.lw rs rt imm) s = execLw rs rt imm s := rfl

end Sys2Proof.Machine
end

