-- ==== Sys2Proof/Laws/PerInstr.lean ====
section
/-! SUPPORT. Per-instruction lemmas: the opcode field of each instruction's word is the opcode the
spec gives it (30_encoding.md R98). -/

namespace Sys2Proof.Laws.EncodesOpcode

/-- The primary opcode of an instruction (R98). -/
def opcodeOf : Instr → BitVec 6
  | .ori _ _ _ => 0b001101#6
  | .lui _ _ _ => 0b001111#6
  | .mtc0 _ _ _ _ => 0b010000#6
  | .lw _ _ _ => 0b100011#6

/-- The instruction is well formed and its word carries its opcode in bits 31:26. -/
def Statement (i : Instr) : Prop :=
  i.wellFormed = true ∧ opcodeField (encode i) = opcodeOf i

theorem ori (rs rt : GprIdx) (imm : BitVec 16) : Statement (.ori rs rt imm) :=
  ⟨rfl, opcodeField_iType _ _ _ _⟩

theorem lui (rs : BitVec 5) (rt : GprIdx) (imm : BitVec 16) : Statement (.lui rs rt imm) :=
  ⟨rfl, opcodeField_iType _ _ _ _⟩

theorem mtc0 (sub : BitVec 5) (rt : GprIdx) (rd : Cp0Idx) (low : BitVec 11) :
    Statement (.mtc0 sub rt rd low) :=
  ⟨rfl, opcodeField_cop0Type _ _ _ _ _⟩

theorem lw (rs rt : GprIdx) (imm : BitVec 16) : Statement (.lw rs rt imm) :=
  ⟨rfl, opcodeField_iType _ _ _ _⟩

end Sys2Proof.Laws.EncodesOpcode
end

