-- ==== Sys2Proof/Tests/Slice0.lean ====
section
/-! SUPPORT. Our own tests. Expected values are those of 95_test_vectors.md (the vector is named) or
read off the rule named. The last part gives, for each statement with hypotheses, concrete states and
operands that meet them. -/

namespace Sys2Proof.Tests

open Sys2Proof.Machine

/-! ### Helpers -/

def nextOf (o : Host.Outcome State Fault Refusal) : Option State :=
  match o with
  | .next s => some s
  | .fault _ => none
  | .refused _ => none

def faultOf (o : Host.Outcome State Fault Refusal) : Option Fault :=
  match o with
  | .next _ => none
  | .fault f => some f
  | .refused _ => none

def doneOf (e : RunEnd) : Option State :=
  match e with
  | .done s => some s
  | .faulted _ _ => none
  | .refused _ _ => none

theorem next_of_isSome {o : Host.Outcome State Fault Refusal} (h : (nextOf o).isSome = true) :
    ∃ t, o = .next t := by
  cases o <;> simp_all [nextOf]

theorem fault_of_isSome {o : Host.Outcome State Fault Refusal} (h : (faultOf o).isSome = true) :
    ∃ f, o = .fault f := by
  cases o <;> simp_all [faultOf]

theorem done_of_isSome {e : RunEnd} (h : (doneOf e).isSome = true) : ∃ t, e = .done t := by
  cases e <;> simp_all [doneOf]

/-- The reset state with one register written and one word of the map listed. -/
def withRegWord (i : GprIdx) (v : Word64) (pa : PAddr) (w : Word32) : State :=
  let s := writeGpr State.reset i v
  setBus s { s.bus with mem := s.bus.mem.writeWord pa w }

/-- The reset state with one register written. -/
def withReg (i : GprIdx) (v : Word64) : State := writeGpr State.reset i v

/-- The reset state about to fetch `w`. -/
def fetching (w : Nat) : State := State.reset.withFetchWord 32 w

/-! ### Well-formedness: one ill-formed term for each check -/

theorem test_row_mask_refused : (⟨"ORI", 0x34000000#32, 0xFC00003F#32⟩ : TableRow).wellFormed = false := by
  decide

theorem test_row_match_outside_mask_refused :
    (⟨"ORI", 0x36000000#32, 0xFC000000#32⟩ : TableRow).wellFormed = false := by decide

theorem test_table_overlap_refused :
    tableWellFormed (⟨"X", 0x8C000000#32, 0xFC000000#32⟩ :: opcodeTable) = false := by decide

theorem test_table_wellFormed : tableWellFormed opcodeTable = true := by decide

/-! ### Decoding: words written out from the formats of R92 and R93 -/

theorem test_decode_ori :
    decode 0b001101_00001_00010_0000000000001111#32 = .ok (.ori 1 2 0x000F#16) := by decide

theorem test_decode_lui_ignored_rs :
    decode 0b001111_11111_00001_0001001000110100#32 = .ok (.lui 31 1 0x1234#16) := by decide

theorem test_decode_mtc0 :
    decode 0b010000_00100_01000_10000_11111111111#32 = .ok (.mtc0 4 8 16 0x7FF#11) := by decide

theorem test_decode_lw :
    decode 0b100011_00001_00011_1111111111111100#32 = .ok (.lw 1 3 0xFFFC#16) := by decide

/-- V-DEC-1: the all-zero word. -/
theorem test_decode_zero_word : decode 0#32 = .error (.unrecognizedInstruction 0#32) := by decide

/-- The table's four rows, with all other bits 0, and a word too wide. -/
theorem test_decodeTableWord :
    [decodeTableWord 32 0x34000000, decodeTableWord 32 0x3C000000, decodeTableWord 32 0x40000000,
      decodeTableWord 32 0x8C000000, decodeTableWord 33 0x8C000000] =
    [some (.ori 0 0 0), some (.lui 0 0 0), some (.mtc0 0 0 0 0), some (.lw 0 0 0), none] := by decide

/-! ### One step of each instruction -/

/-- V-ORI-3: the upper bits of the source are kept. -/
theorem test_ori_keeps_upper :
    (nextOf (exec (.ori 1 2 0xFFFF#16) (withReg 1 0xFFFFFFFF80000000#64))).map (readGpr · 2) =
      some 0xFFFFFFFF8000FFFF#64 := by decide

/-- W1: `ori $0, $0, 0xFFFF` leaves register 0 and advances the pc. -/
theorem test_ori_zero_destination :
    (nextOf (step (fetching 0x3400FFFF))).map (fun t => (readGpr t 0, t.cpu.pc)) =
      some (0#64, 0xFFFFFFFFBFC00004#64) := by decide

/-- V-LUI-1: bit 31 of the shifted immediate is extended. -/
theorem test_lui_sign :
    (nextOf (step (fetching 0x3C018000))).map (readGpr · 1) = some 0xFFFFFFFF80000000#64 := by decide

/-- V-LUI-3. -/
theorem test_lui_positive :
    (nextOf (step (fetching 0x3C017FFF))).map (readGpr · 1) = some 0x000000007FFF0000#64 := by decide

/-- V-MT-2: the upper half of the source is ignored. -/
theorem test_mtc0_status :
    (nextOf (step ((withReg 8 0xFFFFFFFF00000011#64).withFetchWord 32 0x40886000))).map
      (fun t => t.cpu.cp0.status) =
      some { statusReset with ksu := .user, globalInterruptEnable := true } := by decide

/-- V-MT-4: `ksu = 11` faults, with the payload of R170. -/
theorem test_mtc0_invalid_ksu :
    faultOf (step ((withReg 8 0x18#64).withFetchWord 32 0x40886000)) =
      some (.decodeError .status .ksu 0x18#32 12 0x40886000#32 0xFFFFFFFFBFC00000#64) := by decide

/-- V-LW-4: a negative offset. -/
theorem test_lw_negative_offset :
    (nextOf (exec (.lw 1 3 0xFFFC#16) (withRegWord 1 0xFFFFFFFFA0000100#64 0xFC#32 0x5#32))).map
      (readGpr · 3) = some 0x5#64 := by decide

/-- V-LW-18: the sign is taken after `Order`. -/
theorem test_lw_byteSwapped_sign :
    (nextOf (exec (.lw 1 2 0#16)
      { withRegWord 1 0xFFFFFFFFA0000040#64 0x40#32 0xFEFFFFFF#32 with
        params := { defaultParams with wordOrder := .byteSwapped } })).map (readGpr · 2) =
      some 0xFFFFFFFFFFFFFFFE#64 := by decide

/-! ### Translation, fetch and CP0 vectors -/

/-- V-TR-1, V-TR-2, V-TR-5, V-TR-7, V-TR-9. -/
theorem test_translate :
    [0xFFFFFFFFA0000040#64, 0x0000000080000000#64, 0xFFFFFFFFBFFFFFFF#64, 0xFFFFFFFFC0000000#64,
      0x00000000A0000040#64].map translateAddr =
    [some 0x40#32, none, some 0x1FFFFFFF#32, none, none] := by decide

/-- V-DEC-1: a `nop` is fatal. -/
theorem test_nop_is_fatal :
    faultOf (step (fetching 0)) =
      some (.unrecognizedInstruction 0#32 0xFFFFFFFFBFC00000#64) := by decide

/-- V-DEC-9: nothing backed at the boot vector; the failure value is the Interconnect's. -/
theorem test_unbacked_fetch :
    step State.reset = .fault (.busFault 0x1FC00000#32 0xFFFFFFFFBFC00000#64 none
      (Config.unbackedFailure 0x1FC00000#32)) := rfl

/-- The five tags of 60_exceptions.md R170. -/
theorem test_faultTags :
    [faultTag (.unrecognizedInstruction 0 0), faultTag (.decodeError .status .ksu 0 12 0 0),
      faultTag (.translationFault 0 0 none), faultTag (.busFault 0 0 none ⟨0⟩),
      faultTag (.alignmentFault 0 0 none)] = [1, 2, 3, 4, 5] := by decide

/-- V-CFG-9 and V-CFG-12. -/
theorem test_decodeConfig :
    (decodeConfig 0xF6FF7FF7#32, decodeConfig 0x07008000#32) =
      (.ok ⟨.dxxdxx, .little, false, true⟩,
        .error ⟨.config, .dataTransferPattern, 0x07008000#32⟩) := by
  decide

/-- The two encodings of section 2.3 of the vectors. -/
theorem test_encodeConfig :
    (encodeConfig ⟨.dxxdxx, .big, true, false⟩, encodeConfig (configReset true)) =
      (0x0600800A#32, 0x00008003#32) := by decide

/-- Section 2.4 of the vectors: `0xFFFF_FFE7` re-encodes to `0xFF74_FFE7`. -/
theorem test_encodeStatus :
    (decodeStatus 0xFFFFFFE7#32).map encodeStatus = .ok 0xFF74FFE7#32 := by decide

/-! ### Witnesses: the hypotheses of the statements can be met -/

/-- `x1` points at the lowest word of kseg1, which the map backs, and so does the fetch. -/
def lowState : State := (withRegWord 1 0xFFFFFFFFA0000000#64 0x0#32 0x1#32).withFetchWord 32 0x8C220000

/-- `x1` points at the highest word of kseg1, and the answers are pending rather than listed. -/
def highState : State :=
  let s := withReg 1 0xFFFFFFFFBFFFFFFC#64
  setBus s { s.bus with answers := [.word 0x8C220000#32, .word 0x2#32] }

/-- `x8` holds a value Status refuses, `x9` one Config refuses. -/
def badState : State :=
  writeGpr ((withReg 8 0x18#64).withFetchWord 32 0x40886000) 9 0x01000000#64

/-- The pc at the last word of kseg1. -/
def topState : State :=
  (setPc State.reset 0xFFFFFFFFBFFFFFFC#64).withFetchWord 32 0x34010001

theorem witness_GprReadAndWrite :
    (31 : GprIdx) ≠ 0 ∧ (1 : GprIdx) ≠ 0 ∧ (1 : GprIdx) ≠ 31 ∧ (0 : GprIdx) ≠ 31 := by decide

theorem witness_NoHandlerReadsTheZeroCell : (1 : GprIdx) ≠ 0 ∧ (31 : GprIdx) ≠ 0 := by decide

theorem witness_ImmediateOperandBits : ∀ k ∈ [0, 15, 16, 31, 32, 63], k < 64 := by decide

theorem witness_OriResultAndFrame :
    0x3422000F#32 &&& 0xFC000000#32 = 0x34000000#32 ∧
    0x37FFFFFF#32 &&& 0xFC000000#32 = 0x34000000#32 ∧ (31 : GprIdx) ≠ 0 := by decide

theorem witness_LuiResultAndFrame :
    0x3C018000#32 &&& 0xFC000000#32 = 0x3C000000#32 ∧
    0x3FFFFFFF#32 &&& 0xFC000000#32 = 0x3C000000#32 ∧ (31 : GprIdx) ≠ 0 := by decide

/-- One word for each clause; the first two show both values of bit 15. -/
theorem witness_ConfigDecodeByFields :
    (0x00000000#32).extractLsb' 24 4 = 0#4 ∧ (0x06008000#32).extractLsb' 24 4 = 6#4 ∧
    ((0x05000000#32).extractLsb' 24 4 ≠ 0#4 ∧ (0x05000000#32).extractLsb' 24 4 ≠ 6#4) ∧
    decodeConfig 0x00000000#32 = .ok ⟨.normal, .little, false, true⟩ ∧
    decodeConfig 0x06008000#32 = .ok ⟨.dxxdxx, .big, false, true⟩ ∧
    decodeConfig 0x00000002#32 = .ok ⟨.normal, .little, false, false⟩ := by decide

theorem witness_StatusDecodeByFields :
    (0x00000018#32).extractLsb' 3 2 = 0b11#2 ∧ (0xFFFFFFE7#32).extractLsb' 3 2 ≠ 0b11#2 ∧
    decodeStatus 0x00000000#32 = .ok statusReset ∧
    decodeStatus 0x00000008#32 = .ok { statusReset with ksu := .supervisor } ∧
    decodeStatus 0x00000010#32 = .ok { statusReset with ksu := .user } := by decide

theorem witness_Cp0NamedFieldsRoundTrip :
    decodeStatus 0x00880000#32 = .ok statusReset ∧
    decodeConfig 0xF6FF7FF7#32 = .ok ⟨.dxxdxx, .little, false, true⟩ := by decide

theorem witness_Cp0UnnamedBitsDiscarded :
    (0x008B0010#32 &&& 0xFF74FFFF#32 = 0x00000010#32 &&& 0xFF74FFFF#32 ∧
      (0x008B0010#32).extractLsb' 3 2 ≠ 0b11#2) ∧
    (0xF0FF7FF7#32 &&& 0x0F008008#32 = 0x00000000#32 &&& 0x0F008008#32 ∧
      ((0xF0FF7FF7#32).extractLsb' 0 3 = 0b010#3 ↔ (0x00000000#32).extractLsb' 0 3 = 0b010#3) ∧
      (0xF0FF7FF7#32).extractLsb' 24 4 = 0#4) ∧
    (0x7600000A#32 &&& 0x0F008008#32 = 0x0600000A#32 &&& 0x0F008008#32 ∧
      ((0x7600000A#32).extractLsb' 0 3 = 0b010#3 ↔ (0x0600000A#32).extractLsb' 0 3 = 0b010#3) ∧
      (0x7600000A#32).extractLsb' 24 4 = 6#4) := by decide

theorem witness_BankWriteReplacesOneRegister :
    decodeStatus 0x00000000#32 = .ok statusReset ∧
    decodeStatus 0x00000018#32 = .error ⟨.status, .ksu, 0x18#32⟩ ∧
    decodeConfig 0x00008000#32 = .ok (configReset true) ∧
    decodeConfig 0x01000000#32 = .error ⟨.config, .dataTransferPattern, 0x01000000#32⟩ ∧
    (∀ i ∈ [(0 : Cp0Idx), 11, 13, 15, 17, 31], i ≠ 12 ∧ i ≠ 16) := by decide

/-- The word clause, then a source value for each of the four clauses on index 12 and 16. -/
theorem witness_Mtc0ResultAndFaults :
    0x43FFFFFF#32 &&& 0xFC000000#32 = 0x40000000#32 ∧
    ((readGpr State.reset 8).setWidth 32).extractLsb' 3 2 ≠ 0b11#2 ∧
    ((readGpr badState 8).setWidth 32).extractLsb' 3 2 = 0b11#2 ∧
    ((readGpr State.reset 8).setWidth 32).extractLsb' 24 4 = 0#4 ∧
    (((readGpr badState 9).setWidth 32).extractLsb' 24 4 ≠ 0#4 ∧
      ((readGpr badState 9).setWidth 32).extractLsb' 24 4 ≠ 6#4) ∧
    ((31 : Cp0Idx) ≠ 12 ∧ (31 : Cp0Idx) ≠ 16) := by decide

theorem witness_Mtc0Frame :
    (∃ t, exec (.mtc0 4 8 12 0) State.reset = .next t) ∧
    (∃ t, exec (.mtc0 4 8 16 0) State.reset = .next t) ∧
    ∃ t, exec (.mtc0 31 8 31 0x7FF) badState = .next t :=
  ⟨next_of_isSome (by decide), next_of_isSome (by decide), next_of_isSome (by decide)⟩

theorem witness_MipsCop0WordsAreMtc0 :
    decodeStatus ((readGpr State.reset 8).setWidth 32) = .ok statusReset ∧
    decodeConfig ((readGpr State.reset 8).setWidth 32) = .ok (configCreation true) ∧
    0x42000018#32 ∈ [0x41000003#32, 0x42000001#32, 0x42000002#32, 0x42000006#32, 0x42000008#32,
      0x42000018#32] := by decide

theorem witness_TranslateExactlyKseg1 :
    InKseg1 0xFFFFFFFFA0000000#64 ∧ InKseg1 0xFFFFFFFFBFFFFFFF#64 ∧
    translateAddr 0xFFFFFFFFBFFFFFFF#64 = some (kseg1Offset 0xFFFFFFFFBFFFFFFF#64) ∧
    segmentSelector 0xFFFFFFFFC0000000#64 ≠ 0b101#3 := by decide

/-- The lowest and the highest word of kseg1, from the map and from a pending answer. -/
theorem witness_LwLoadsAndFrame :
    0x8C220000#32 &&& 0xFC000000#32 = 0x8C000000#32 ∧
    ReadServed lowState (readGpr lowState 1 + (0#16).signExtend 64) 0x1#32 ∧
    ReadServed highState (readGpr highState 1 + (0#16).signExtend 64) 0x8C220000#32 := by decide

/-- A misaligned address, one just below and one just above kseg1, and an unbacked one. -/
theorem witness_LwFaultsInOrder :
    (readGpr lowState 1 + (0x0002#16).signExtend 64).toNat % 4 ≠ 0 ∧
    ((readGpr lowState 1 + (0xFFFC#16).signExtend 64).toNat % 4 = 0 ∧
      ¬ InKseg1 (readGpr lowState 1 + (0xFFFC#16).signExtend 64)) ∧
    ((readGpr highState 1 + (0x0004#16).signExtend 64).toNat % 4 = 0 ∧
      ¬ InKseg1 (readGpr highState 1 + (0x0004#16).signExtend 64)) ∧
    ((readGpr lowState 1 + (0x0004#16).signExtend 64).toNat % 4 = 0 ∧
      InKseg1 (readGpr lowState 1 + (0x0004#16).signExtend 64)) := by decide

/-- The failure answer of the last clause. -/
theorem witness_LwFaultsInOrder_failure :
    busAnswer lowState.bus (kseg1Offset (readGpr lowState 1 + (0x0004#16).signExtend 64)) =
      .failure (Config.unbackedFailure 0x4#32) := rfl

theorem witness_LwFromRegisterZeroFaults :
    (0x0040#16).toNat % 4 = 0 ∧ (0xFFFC#16).toNat % 4 = 0 ∧ (0x0001#16).toNat % 4 ≠ 0 := by decide

theorem witness_LwFaultBeforeBusIgnoresBus :
    (readGpr lowState 1 + (0x0002#16).signExtend 64).toNat % 4 ≠ 0 ∧
    ¬ InKseg1 (readGpr lowState 1 + (0xFFFC#16).signExtend 64) := by decide

/-- A word for each clause, and a state whose fetch is served an unrecognized one. -/
theorem witness_DispatchByPrimaryOpcode :
    (0x37FFFFFF#32).extractLsb' 26 6 = 0b001101#6 ∧ (0x3FFFFFFF#32).extractLsb' 26 6 = 0b001111#6 ∧
    (0x43FFFFFF#32).extractLsb' 26 6 = 0b010000#6 ∧ (0x8FFFFFFF#32).extractLsb' 26 6 = 0b100011#6 ∧
    ((0xFFFFFFFF#32).extractLsb' 26 6 ≠ 0b001101#6 ∧ (0xFFFFFFFF#32).extractLsb' 26 6 ≠ 0b001111#6 ∧
      (0xFFFFFFFF#32).extractLsb' 26 6 ≠ 0b010000#6 ∧
      (0xFFFFFFFF#32).extractLsb' 26 6 ≠ 0b100011#6) ∧
    ReadServed (fetching 0xFFFFFFFF) (fetching 0xFFFFFFFF).cpu.pc 0xFFFFFFFF#32 ∧
    order (fetching 0xFFFFFFFF).params.wordOrder 0xFFFFFFFF#32 = 0xFFFFFFFF#32 := by decide

theorem witness_UnrecognizedOpcodeIsFatal :
    ReadServed (fetching 0) (fetching 0).cpu.pc 0#32 ∧
    (order (fetching 0).params.wordOrder 0#32).extractLsb' 26 6 ∉
      [0b001101#6, 0b001111#6, 0b010000#6, 0b100011#6] := by decide

theorem witness_OpcodeTableAgreesWithDecode :
    (∃ r ∈ opcodeTable, r.selects 0x8FFFFFFF#32 = true) ∧
    ∀ r ∈ opcodeTable, r.selects 0x0#32 = false := by decide

theorem witness_DecodeOfEncode :
    (Instr.mtc0 31 31 31 0x7FF).wellFormed = true ∧ (Instr.lw 31 31 0xFFFF).wellFormed = true := by
  decide

theorem witness_EncodeOfDecode :
    decode 0x43FFFFFF#32 = .ok (.mtc0 31 31 31 0x7FF) ∧ decode 0x3FFFFFFF#32 = .ok (.lui 31 31 0xFFFF) := by
  decide

theorem witness_IgnoredFieldsHaveNoEffect :
    (∃ t, exec (.mtc0 4 8 12 0) State.reset = .next t) ∧
    exec (.mtc0 4 8 12 0) badState =
      .fault (.decodeError .status .ksu 0x18#32 12 0x40886000#32 0xFFFFFFFFBFC00000#64) :=
  ⟨next_of_isSome (by decide), rfl⟩

/-- A step whose instruction completes, and one whose instruction faults. -/
theorem witness_StepRunsDecodedInstruction :
    (ReadServed lowState lowState.cpu.pc 0x8C220000#32 ∧
      decode (order lowState.params.wordOrder 0x8C220000#32) = .ok (.lw 1 2 0) ∧
      (Instr.lw 1 2 0).wellFormed = true ∧ ∃ t, exec (.lw 1 2 0) (afterFetch lowState) = .next t) ∧
    (ReadServed badState badState.cpu.pc 0x40886000#32 ∧
      decode (order badState.params.wordOrder 0x40886000#32) = .ok (.mtc0 4 8 12 0) ∧
      ∃ f, exec (.mtc0 4 8 12 0) (afterFetch badState) = .fault f) :=
  ⟨⟨by decide, by decide, by decide, next_of_isSome (by decide)⟩,
    by decide, by decide, fault_of_isSome (by decide)⟩

theorem witness_FetchFaultsInOrder :
    (setPc State.reset 0xFFFFFFFFBFC00002#64).cpu.pc.toNat % 4 ≠ 0 ∧
    ((setPc State.reset 0xFFFFFFFFC0000000#64).cpu.pc.toNat % 4 = 0 ∧
      ¬ InKseg1 (setPc State.reset 0xFFFFFFFFC0000000#64).cpu.pc) ∧
    (State.reset.cpu.pc.toNat % 4 = 0 ∧ InKseg1 State.reset.cpu.pc) := by decide

theorem witness_FetchFaultsInOrder_failure :
    busAnswer State.reset.bus (kseg1Offset State.reset.cpu.pc) =
      .failure (Config.unbackedFailure 0x1FC00000#32) := rfl

/-- Completed steps at the ends of the range: a load, a load from pending answers, the last word of
kseg1. They meet the hypotheses of CompletedStepAdvancesPcByFour, NoStepWritesUnusedStateOrMemory and
StepAsksExactlyItsReads. -/
theorem witness_completed_steps :
    (∃ t, step lowState = .next t) ∧ (∃ t, step highState = .next t) ∧ ∃ t, step topState = .next t :=
  ⟨next_of_isSome (by decide), next_of_isSome (by decide), next_of_isSome (by decide)⟩

theorem witness_HandlerWritesOneDestination :
    (∃ t, exec (.ori 1 31 0xFFFF) lowState = .next t) ∧ (∃ t, exec (.lui 31 0 0xFFFF) lowState = .next t) ∧
    (∃ t, exec (.mtc0 4 8 12 0) lowState = .next t) ∧ ∃ t, exec (.lw 1 1 0) lowState = .next t :=
  ⟨next_of_isSome (by decide), next_of_isSome (by decide), next_of_isSome (by decide),
    next_of_isSome (by decide)⟩

/-- The ready side of StepCompletesExactlyWhenReady, for the load at the lowest word of kseg1. -/
theorem witness_StepCompletesExactlyWhenReady : StepReady lowState :=
  ⟨0x8C220000#32, .lw 1 2 0, by decide, by decide, 0x1#32, by decide⟩

/-- A fault after a served fetch, and one of the fetch itself. -/
theorem witness_FaultReportsPcAndWord :
    ((∃ f, step badState = .fault f) ∧ ReadServed badState badState.cpu.pc 0x40886000#32) ∧
    ((∃ f, step (setPc State.reset 0x2#64) = .fault f) ∧
      ∀ r, ¬ ReadServed (setPc State.reset 0x2#64) (setPc State.reset 0x2#64).cpu.pc r) :=
  ⟨⟨fault_of_isSome (by decide), by decide⟩, fault_of_isSome (by decide),
    fun _ h => absurd h.1 (by decide)⟩

theorem topState_inv : Inv topState :=
  ⟨by decide, by decide, by decide, fun _ h => nomatch h⟩

theorem witness_StepKeepsInvariant : Inv topState ∧ ∃ t, step topState = .next t :=
  ⟨topState_inv, next_of_isSome (by decide)⟩

/-- Every kind of move, each once. -/
theorem witness_HostMovesKeepInvariant :
    Inv topState ∧ ∃ t, drive [.step, .reset, .busWrite 0x1FC00000#32 0x34#8, .busUnmap 0x0#32,
      .busAnswers [.word 0x34010001#32], .step] topState = .done t :=
  ⟨topState_inv, done_of_isSome (by decide)⟩

theorem witness_StepKeepsGprsSignExtended :
    GprsSignExtended lowState ∧ ∃ t, step lowState = .next t :=
  ⟨by decide, next_of_isSome (by decide)⟩

theorem witness_SignExtendedBaseNeverMeetsConflictC1 :
    GprsSignExtended lowState ∧ segmentSelector (effectiveAddress lowState 1 0) = 0b101#3 := by decide

/-- A run of two steps whose second step faults: V-DEC-12 then V-DEC-13. -/
theorem witness_RunFaultsAtFirstFault :
    ∃ f t, run 2 topState = .faulted f t ∧ f = .translationFault 0xFFFFFFFFC0000000#64 0xFFFFFFFFC0000000#64 none :=
  ⟨_, _, rfl, rfl⟩

theorem witness_FaultIsFinal : ∃ f s, drive [.step] (fetching 0) = .faulted f s := ⟨_, _, rfl⟩

theorem witness_RunAdvancesPcByFourPerStep : ∃ t, run 1 topState = .done t :=
  done_of_isSome (by decide)

theorem witness_PlacedWordIsFetched :
    State.reset.cpu.pc.toNat % 4 = 0 ∧ InKseg1 State.reset.cpu.pc ∧
    highState.cpu.pc.toNat % 4 = 0 ∧ InKseg1 highState.cpu.pc := by decide

end Sys2Proof.Tests
end

namespace Sys2Proof.Machine

/-- 42_cop0_move.md R140: a CP0 write completes or reports the failed decode. -/
theorem writeCp0_ne_refused (index : Cp0Idx) (data word : Word32) (s : State) (r : Refusal) :
    writeCp0 index data word s ≠ .refused r := by
  unfold writeCp0
  split <;> simp

/-- 43_load.md R150: a load completes or has the read's fault. -/
theorem execLw_ne_refused (rs rt : GprIdx) (imm : BitVec 16) (s : State) (r : Refusal) :
    execLw rs rt imm s ≠ .refused r := by
  unfold execLw
  split <;> simp

/-- Every instruction has its meaning: no arm of the dispatch refuses. -/
theorem exec_ne_refused (i : Instr) (s : State) (r : Refusal) : exec i s ≠ .refused r := by
  cases i with
  | ori rs rt imm => simp [exec_ori]
  | lui rs rt imm => simp [exec_lui]
  | mtc0 sub rt rd low => rw [exec_mtc0]; exact writeCp0_ne_refused _ _ _ _ _
  | lw rs rt imm => rw [exec_lw]; exact execLw_ne_refused _ _ _ _ _

/-- The advance passes a refusal on and makes none. -/
theorem advanceOutcome_eq_refused_iff {o : Host.Outcome State Fault Refusal} {r : Refusal} :
    advanceOutcome o = .refused r ↔ o = .refused r := by
  cases o <;> simp [advanceOutcome]

/-- 00_scope.md R12: a failed fetch or decode is a fault, and execute refuses nothing. -/
theorem step_ne_refused (s : State) (r : Refusal) : step s ≠ .refused r := by
  unfold step
  split
  · simp
  · rw [Ne, advanceOutcome_eq_refused_iff]
    exact exec_ne_refused _ _ _

/-- Settles O37: of the three outcomes of a step, `step_ne_refused` excludes the refusal. -/
theorem everyStepIsNextOrFault : Obligations.EveryStepIsNextOrFault := by
  unfold Obligations.EveryStepIsNextOrFault
  intro s
  cases h : step s with
  | next t => exact .inl ⟨t, rfl⟩
  | fault f => exact .inr ⟨f, rfl⟩
  | refused r => exact absurd h (step_ne_refused s r)

end Sys2Proof.Machine

namespace Sys2Proof.Machine

/-! ### What a step leaves the same

A property that each of a step's four state operations keeps is kept by the step. -/

section preserves
variable {P : State → Prop}

/-- Execute changes a state by a GPR write, a bank write and a bus read only. -/
theorem exec_preserves (hgpr : ∀ s rt v, P s → P (writeGpr s rt v))
    (hcp0 : ∀ s c, P s → P (setCp0 s c))
    (hread : ∀ s va pa, aligned va = true → translateAddr va = some pa → P s →
      P (setBus s (busAfterRead s.bus pa)))
    {i : Instr} {s t : State} (hs : P s) (h : exec i s = .next t) : P t := by
  rcases exec_next_cases h with
    ⟨rt, v, rfl⟩ | ⟨c, rfl⟩ | ⟨rs, rt, imm, v, pa, -, ha, htr, rfl⟩
  · exact hgpr s rt v hs
  · exact hcp0 s c hs
  · exact hgpr _ rt v (hread s _ pa ha htr hs)

/-- Fetch and decode change a state by the fetch's bus read only. -/
theorem fetchInstr_preserves
    (hread : ∀ s va pa, aligned va = true → translateAddr va = some pa → P s →
      P (setBus s (busAfterRead s.bus pa)))
    {i : Instr} {s s1 : State} (hs : P s) (h : fetchInstr s = .ok (i, s1)) : P s1 := by
  obtain ⟨w, hw, -⟩ := fetchInstr_ok_cases h
  obtain ⟨pa, r, ha, htr, -, -, rfl⟩ := memRead_ok_cases hw
  exact hread s _ pa ha htr hs

/-- 40_engine.md R116: a step is the fetch's read, execute and the advance. -/
theorem step_preserves (hgpr : ∀ s rt v, P s → P (writeGpr s rt v))
    (hcp0 : ∀ s c, P s → P (setCp0 s c))
    (hread : ∀ s va pa, aligned va = true → translateAddr va = some pa → P s →
      P (setBus s (busAfterRead s.bus pa)))
    (hadvance : ∀ s, P s → P (advance s))
    {s t : State} (hs : P s) (h : step s = .next t) : P t := by
  obtain ⟨i, s1, t1, hf, he, rfl⟩ := step_next_cases h
  exact hadvance t1 (exec_preserves hgpr hcp0 hread (fetchInstr_preserves hread hs hf) he)

end preserves

/-! ### What a step cannot tell apart

`StepCongruent R` says that related states agree in all a step reads (the GPRs as `readGpr` gives
them, the pc, the bus, the parameters) and that the state operations keep them related. A step then
takes related states to related outcomes. -/

structure StepCongruent (R : State → State → Prop) : Prop where
  readGpr_eq : ∀ {s s'}, R s s' → ∀ i, readGpr s' i = readGpr s i
  pc_eq : ∀ {s s'}, R s s' → s'.cpu.pc = s.cpu.pc
  bus_eq : ∀ {s s'}, R s s' → s'.bus = s.bus
  params_eq : ∀ {s s'}, R s s' → s'.params = s.params
  rel_writeGpr : ∀ {s s'}, R s s' → ∀ rt v, R (writeGpr s rt v) (writeGpr s' rt v)
  rel_setPc : ∀ {s s'}, R s s' → ∀ v, R (setPc s v) (setPc s' v)
  rel_setBus : ∀ {s s'}, R s s' → ∀ b, R (setBus s b) (setBus s' b)
  rel_writeReg : ∀ {s s'}, R s s' → ∀ {index data c c'}, writeReg s.cpu.cp0 index data = .ok c →
    writeReg s'.cpu.cp0 index data = .ok c' → R (setCp0 s c) (setCp0 s' c')

/-- Two results of a fallible operation: the same value and related states, or the same fault. -/
inductive ResultsRelated {α : Type} (R : State → State → Prop) :
    Except Fault (α × State) → Except Fault (α × State) → Prop
  | ok (a : α) {t t' : State} (h : R t t') : ResultsRelated R (.ok (a, t)) (.ok (a, t'))
  | error (f : Fault) : ResultsRelated R (.error f) (.error f)

section congruence
variable {R : State → State → Prop} {s s' : State}

/-- The bus read, in the order of its checks, takes related states to related results. -/
theorem memRead_related (hR : StepCongruent R) (h : R s s') (va : Word64) (word : Option Word32) :
    ResultsRelated R (memRead va word s) (memRead va word s') := by
  unfold memRead
  rw [hR.pc_eq h, hR.bus_eq h, hR.params_eq h]
  split
  · split
    · exact .error _
    · split
      · exact .error _
      · exact .ok _ (hR.rel_setBus h _)
  · exact .error _

/-- Decoding reads the fetched word alone. -/
theorem fetchInstr_related (hR : StepCongruent R) (h : R s s') :
    ResultsRelated R (fetchInstr s) (fetchInstr s') := by
  have hread : ResultsRelated R (fetch s) (fetch s') := by
    unfold fetch
    rw [hR.pc_eq h]
    exact memRead_related hR h _ none
  unfold fetchInstr
  rw [hR.pc_eq h]
  generalize fetch s = x, fetch s' = x' at hread
  cases hread with
  | ok w ht =>
    cases hd : decode w with
    | ok i => simpa only [hd] using .ok i ht
    | error e =>
      obtain rfl := decode_error_word hd
      simpa only [hd] using .error _
  | error f => exact .error f

/-- Whether a bank write succeeds is a matter of index and data (`writeReg_error_bank`). -/
theorem writeCp0_related (hR : StepCongruent R) (h : R s s') (index : Cp0Idx)
    (data word : Word32) :
    OutcomesRelated R (writeCp0 index data word s) (writeCp0 index data word s') := by
  unfold writeCp0
  cases hw : writeReg s.cpu.cp0 index data with
  | error e => simp [writeReg_error_bank s'.cpu.cp0 hw, OutcomesRelated, hR.pc_eq h]
  | ok c =>
    cases hw' : writeReg s'.cpu.cp0 index data with
    | error e =>
      have := writeReg_error_bank s.cpu.cp0 hw'
      simp [hw] at this
    | ok c' => exact hR.rel_writeReg h hw hw'

/-- The load reads its base through `readGpr` and writes through `writeGpr`. -/
theorem execLw_related (hR : StepCongruent R) (h : R s s') (rs rt : GprIdx) (imm : BitVec 16) :
    OutcomesRelated R (execLw rs rt imm s) (execLw rs rt imm s') := by
  have hread := memRead_related hR h (effectiveAddress s rs imm)
    (some (encode (.lw rs rt imm)))
  unfold execLw
  rw [effectiveAddress_eq s', hR.readGpr_eq h, ← effectiveAddress_eq]
  generalize memRead _ _ s = x, memRead _ _ s' = x' at hread
  cases hread with
  | ok w ht => exact hR.rel_writeGpr ht _ _
  | error f => exact rfl

/-- One case per instruction: its operands are read alike and its writes keep the relation. -/
theorem exec_related (hR : StepCongruent R) (h : R s s') (i : Instr) :
    OutcomesRelated R (exec i s) (exec i s') := by
  cases i with
  | ori rs rt imm =>
    rw [exec_ori, exec_ori, hR.readGpr_eq h]
    exact hR.rel_writeGpr h _ _
  | lui rs rt imm => exact hR.rel_writeGpr h _ _
  | mtc0 sub rt rd low =>
    rw [exec_mtc0, exec_mtc0, mtc0Operand_eq s', hR.readGpr_eq h]
    exact writeCp0_related hR h _ _ _
  | lw rs rt imm => exact execLw_related hR h rs rt imm

/-- Related outcomes are two related next states or the same stop. -/
theorem outcomesRelated_cases {o o' : Host.Outcome State Fault Refusal}
    (h : OutcomesRelated R o o') :
    (∃ t t', o = .next t ∧ o' = .next t' ∧ R t t') ∨ (∃ f, o = .fault f ∧ o' = .fault f) ∨
      ∃ r, o = .refused r ∧ o' = .refused r := by
  cases o <;> cases o' <;> simp_all [OutcomesRelated]

/-- The advance reads and writes the pc alone. -/
theorem advanceOutcome_related (hR : StepCongruent R) {o o' : Host.Outcome State Fault Refusal}
    (h : OutcomesRelated R o o') :
    OutcomesRelated R (advanceOutcome o) (advanceOutcome o') := by
  rcases outcomesRelated_cases h with ⟨t, t', rfl, rfl, ht⟩ | ⟨f, rfl, rfl⟩ | ⟨r, rfl, rfl⟩
  · simp only [advanceOutcome, OutcomesRelated, advance, hR.pc_eq ht]
    exact hR.rel_setPc ht _
  · exact rfl
  · exact rfl

/-- A step takes states it cannot tell apart to such states, or stops with the same fault. -/
theorem step_related (hR : StepCongruent R) (h : R s s') :
    OutcomesRelated R (step s) (step s') := by
  have hfetch := fetchInstr_related hR h
  unfold step
  generalize fetchInstr s = x, fetchInstr s' = x' at hfetch
  cases hfetch with
  | ok i ht => exact advanceOutcome_related hR (exec_related hR ht i)
  | error f => exact rfl

end congruence

/-- Outcomes related by the graph of `g` differ by `g` in the next state. -/
theorem eq_mapNext_of_related {g : State → State} {o o' : Host.Outcome State Fault Refusal}
    (h : OutcomesRelated (fun t t' => t' = g t) o o') : o' = mapNext g o := by
  rcases outcomesRelated_cases h with ⟨t, _, rfl, rfl, rfl⟩ | ⟨f, rfl, rfl⟩ | ⟨r, rfl, rfl⟩ <;> rfl

/-! ### O33: the CP0 bank -/

/-- Equality outside CP0. -/
theorem setCp0_congruent : StepCongruent fun t t' => t' = setCp0 t t'.cpu.cp0 where
  readGpr_eq h i := by rw [h]; rfl
  pc_eq h := by rw [h]; rfl
  bus_eq h := by rw [h]; rfl
  params_eq h := by rw [h]; rfl
  rel_writeGpr h rt v := by
    rw [h]
    unfold writeGpr
    split <;> rfl
  rel_setPc h v := by rw [h]; rfl
  rel_setBus h b := by rw [h]; rfl
  rel_writeReg h := fun _ _ => by rw [h]; rfl

/-- Settles O33: equality outside CP0 is one of the relations a step keeps. -/
theorem stepIgnoresCp0 : Obligations.StepIgnoresCp0 := by
  unfold Obligations.StepIgnoresCp0
  intro s c
  exact step_related setCp0_congruent (s := s) (s' := setCp0 s c) rfl

/-! ### O2: the stored cell of GPR 0 -/

@[simp] theorem readGpr_setZeroCell (v : Word64) (s : State) (i : GprIdx) :
    readGpr (setZeroCell v s) i = readGpr s i := by
  unfold readGpr
  split
  case isTrue => rfl
  case isFalse hi => exact Vector.getElem_set_ne (by omega) i.isLt fun e => hi (Fin.ext e.symm)

/-- A write never meets the cell of index 0. -/
theorem writeGpr_setZeroCell (v : Word64) (s : State) (i : GprIdx) (x : Word64) :
    writeGpr (setZeroCell v s) i x = setZeroCell v (writeGpr s i x) := by
  unfold writeGpr
  split
  case isTrue => rfl
  case isFalse hi =>
    have hne : (0 : Nat) ≠ i := fun e => hi (Fin.ext e.symm)
    simp only [setZeroCell]
    rw [Vector.set_comm v x hne]

theorem setZeroCell_congruent (v : Word64) :
    StepCongruent fun t t' => t' = setZeroCell v t where
  readGpr_eq h i := by rw [h, readGpr_setZeroCell]
  pc_eq h := by rw [h]; rfl
  bus_eq h := by rw [h]; rfl
  params_eq h := by rw [h]; rfl
  rel_writeGpr h rt x := by rw [h, writeGpr_setZeroCell]
  rel_setPc h x := by rw [h]; rfl
  rel_setBus h b := by rw [h]; rfl
  rel_writeReg := by
    rintro s _ rfl index data c c' hc hc'
    obtain rfl : c = c' := Except.ok.inj (hc.symm.trans hc')
    rfl

/-- Settles O2: a step reads GPRs through `readGpr` and writes them through `writeGpr` only, and
neither sees the cell of index 0. -/
theorem noHandlerReadsTheZeroCell : Obligations.NoHandlerReadsTheZeroCell := by
  unfold Obligations.NoHandlerReadsTheZeroCell
  refine ⟨fun s v => ?_, fun s v i => readGpr_setZeroCell v s i, fun s v => ?_, fun s v => rfl,
    fun s v i hi => readGpr_writeGpr_self s i v hi⟩
  · exact eq_mapNext_of_related (step_related (setZeroCell_congruent v) rfl)
  · have hread : readGpr (setZeroCell v s) = readGpr s := funext (readGpr_setZeroCell v s)
    unfold observe
    rw [hread]
    rfl

/-! ### O32: the registers no instruction uses -/

theorem setUnused_congruent (fpr : Vector Word64 32) (fcr0 fcr31 : Word32) (hi lo : Word64)
    (llbit : Bool) :
    StepCongruent fun t t' => t' = setUnused fpr fcr0 fcr31 hi lo llbit t where
  readGpr_eq h i := by rw [h]; rfl
  pc_eq h := by rw [h]; rfl
  bus_eq h := by rw [h]; rfl
  params_eq h := by rw [h]; rfl
  rel_writeGpr h rt v := by
    rw [h]
    unfold writeGpr
    split <;> rfl
  rel_setPc h v := by rw [h]; rfl
  rel_setBus h b := by rw [h]; rfl
  rel_writeReg := by
    rintro s _ rfl index data c c' hc hc'
    obtain rfl : c = c' := Except.ok.inj (hc.symm.trans hc')
    rfl

/-- Settles O32: states that differ in the unused registers are related, so a step takes them to
states that differ in the same way. -/
theorem noStepReadsUnusedState : Obligations.NoStepReadsUnusedState := by
  unfold Obligations.NoStepReadsUnusedState
  intro s fpr fcr0 fcr31 hi lo llbit
  exact eq_mapNext_of_related (step_related (setUnused_congruent fpr fcr0 fcr31 hi lo llbit) rfl)

end Sys2Proof.Machine

namespace Sys2Proof.Machine

/-! ### O43: the machine's invariant -/

/-- The arithmetic of R65 and R66: a translated address is in kseg1, and its physical address is the
offset from the segment's base. -/
theorem translateAddr_toNat {va : Word64} {pa : PAddr} (h : translateAddr va = some pa) :
    InKseg1 va ∧ pa.toNat = va.toNat - 0xFFFFFFFFA0000000 := by
  obtain ⟨hsel, hupper, rfl⟩ := translateAddr_some h
  have hsel' := congrArg BitVec.toNat hsel
  have hupper' := congrArg BitVec.toNat hupper
  simp only [segmentSelector, BitVec.extractLsb'_toNat, BitVec.toNat_ofNat,
    Nat.shiftRight_eq_div_pow] at hsel' hupper'
  have hva := va.isLt
  simp only [BitVec.toNat_setWidth, BitVec.toNat_sub, kseg1Base, BitVec.toNat_ofNat]
  omega

/-- A bus read of an aligned, translated address asks an address in the window. -/
theorem paddr_inWindow {va : Word64} {pa : PAddr} (ha : aligned va = true)
    (h : translateAddr va = some pa) : pa.toNat % 4 = 0 ∧ pa.toNat < 0x20000000 := by
  obtain ⟨⟨hlo, hhi⟩, hpa⟩ := translateAddr_toNat h
  have := (aligned_iff va).1 ha
  omega

/-- The stored cell of index 0 is out of reach of a write. -/
theorem writeGpr_gpr_zero (s : State) (i : GprIdx) (v : Word64) :
    (writeGpr s i v).cpu.gpr[0] = s.cpu.gpr[0] := by
  unfold writeGpr
  split
  case isTrue => rfl
  case isFalse hi => exact Vector.getElem_set_ne i.isLt (by omega) fun e => hi (Fin.ext e)

theorem inv_writeGpr (s : State) (i : GprIdx) (v : Word64) (h : Inv s) : Inv (writeGpr s i v) := by
  obtain ⟨hmem, hpc, hzero, hreads⟩ := h
  refine ⟨?_, ?_, (writeGpr_gpr_zero s i v).trans hzero, ?_⟩
  · rwa [writeGpr_bus]
  · rwa [PcAligned, writeGpr_pc]
  · rwa [ReadsInWindow, writeGpr_bus]

/-- The invariant does not speak of CP0. -/
theorem inv_setCp0 (s : State) (c : Cp0) (h : Inv s) : Inv (setCp0 s c) := h

/-- 20_memory.md R60, R66: the address a read records is in the window. -/
theorem inv_busRead (s : State) (va : Word64) (pa : PAddr) (ha : aligned va = true)
    (htr : translateAddr va = some pa) (h : Inv s) : Inv (setBus s (busAfterRead s.bus pa)) := by
  obtain ⟨hmem, hpc, hzero, hreads⟩ := h
  exact ⟨busAfterRead_wf hmem pa, hpc, hzero,
    List.forall_mem_cons.2 ⟨paddr_inWindow ha htr, hreads⟩⟩

/-- 10_state.md R27: 4 divides 2^64, so adding 4 keeps a multiple of 4 across the wrap too. -/
theorem inv_advance (s : State) (h : Inv s) : Inv (advance s) := by
  obtain ⟨hmem, hpc, hzero, hreads⟩ := h
  refine ⟨hmem, ?_, hzero, hreads⟩
  simp only [PcAligned, advance, setPc_pc, BitVec.toNat_add, BitVec.toNat_ofNat]
  omega

/-- Settles O43: each operation a step is made of keeps the invariant. -/
theorem stepKeepsInvariant : Obligations.StepKeepsInvariant := by
  unfold Obligations.StepKeepsInvariant
  intro s t hs h
  exact step_preserves inv_writeGpr inv_setCp0 inv_busRead inv_advance hs h

/-- Settles O42: nothing is listed or asked after reset, the boot vector is a multiple of 4, and
every register is created as 0. -/
theorem resetMeetsInvariant : Obligations.ResetMeetsInvariant := by
  unfold Obligations.ResetMeetsInvariant
  have hinv (p : Params) : Inv (State.resetWith p) :=
    ⟨State.resetWith_mem_wf p, by simp only [PcAligned, State.resetWith]; decide,
      by simp [ZeroCellZero, State.resetWith, Cpu.creation],
      by simp [ReadsInWindow, State.resetWith, Bus.empty]⟩
  exact ⟨hinv, hinv _⟩

/-! ### O1, O31, O13, O34: what reads, writes and handlers leave unchanged -/

theorem gprsSameExcept_writeGpr (s : State) (rt : GprIdx) (v : Word64) :
    GprsSameExcept rt s (writeGpr s rt v) := fun j hj => readGpr_writeGpr_ne s rt j v hj

/-- Settles O1, R22 and R23 clause by clause. -/
theorem gprReadAndWrite : Obligations.GprReadAndWrite := by
  unfold Obligations.GprReadAndWrite
  intro s i v
  exact ⟨rfl, fun j hj => if_neg hj, rfl, fun hi => if_neg hi, readGpr_writeGpr_self s i v,
    gprsSameExcept_writeGpr s i v⟩

theorem unusedSame_refl (s : State) : UnusedSame s s := ⟨rfl, rfl, rfl, rfl, rfl, rfl, rfl⟩

theorem unusedSame_writeGpr {s u : State} (i : GprIdx) (v : Word64) (h : UnusedSame s u) :
    UnusedSame s (writeGpr u i v) := by
  simpa only [UnusedSame, writeGpr_fpr, writeGpr_fcr0, writeGpr_fcr31, writeGpr_hi, writeGpr_lo,
    writeGpr_llbit, writeGpr_params] using h

theorem memorySame_writeGpr {s u : State} (i : GprIdx) (v : Word64) (h : MemorySame s u) :
    MemorySame s (writeGpr u i v) := by
  simpa only [MemorySame, writeGpr_bus] using h

/-- Settles O31: the GPR write, the bank write, the bus read and the advance each leave the unused
registers, the parameters and the map, so a step does. -/
theorem noStepWritesUnusedStateOrMemory : Obligations.NoStepWritesUnusedStateOrMemory := by
  unfold Obligations.NoStepWritesUnusedStateOrMemory
  intro s t h
  exact step_preserves (P := fun u => UnusedSame s u ∧ MemorySame s u)
    (fun _ rt v ⟨hu, hm⟩ => ⟨unusedSame_writeGpr rt v hu, memorySame_writeGpr rt v hm⟩)
    (fun _ _ hu => hu) (fun _ _ _ _ _ hu => hu) (fun _ hu => hu)
    ⟨unusedSame_refl s, fun _ => rfl⟩ h

/-- 42_cop0_move.md R140: a completed MTC0 is a bank write. -/
theorem exec_mtc0_next_cases {sub : BitVec 5} {rt : GprIdx} {rd : Cp0Idx} {low : BitVec 11}
    {s t : State} (h : exec (.mtc0 sub rt rd low) s = .next t) :
    ∃ c, writeReg s.cpu.cp0 rd (mtc0Operand s rt) = .ok c ∧ t = setCp0 s c := by
  rw [exec_mtc0] at h
  exact writeCp0_next_cases h

/-- 10_state.md R46: a bank write of another index leaves Status. -/
theorem writeReg_status_of_ne {c c' : Cp0} {index : Cp0Idx} {data : Word32}
    (h : writeReg c index data = .ok c') (hi : index ≠ statusIndex) : c'.status = c.status := by
  rcases writeReg_ok_cases h with ⟨rfl, -⟩ | ⟨-, cf, -, rfl⟩ | ⟨-, -, rfl⟩
  · exact absurd rfl hi
  · rfl
  · rfl

/-- 10_state.md R46: a bank write of another index leaves Config. -/
theorem writeReg_config_of_ne {c c' : Cp0} {index : Cp0Idx} {data : Word32}
    (h : writeReg c index data = .ok c') (hi : index ≠ configIndex) : c'.config = c.config := by
  rcases writeReg_ok_cases h with ⟨-, st, -, rfl⟩ | ⟨rfl, -⟩ | ⟨-, -, rfl⟩
  · rfl
  · exact absurd rfl hi
  · rfl

/-- Settles O13: a completed MTC0 replaces the bank alone, and in it at most the selected
register. -/
theorem mtc0Frame : Obligations.Mtc0Frame := by
  unfold Obligations.Mtc0Frame
  intro sub rt rd low s t h
  obtain ⟨c, hc, rfl⟩ := exec_mtc0_next_cases h
  exact ⟨fun j => readGpr_setCp0 s j c, unusedSame_refl s, fun _ => rfl, rfl, rfl,
    writeReg_status_of_ne hc, writeReg_config_of_ne hc⟩

/-- 43_load.md R150: a completed load reads the bus once and writes `rt`. -/
theorem execLw_next_frame {rs rt : GprIdx} {imm : BitVec 16} {s t : State}
    (h : execLw rs rt imm s = .next t) : GprsSameExcept rt s t ∧ t.cpu.cp0 = s.cpu.cp0 := by
  obtain ⟨r, s1, hread, rfl⟩ := execLw_next_cases h
  obtain ⟨pa, r', -, -, -, -, rfl⟩ := memRead_ok_cases hread
  exact ⟨gprsSameExcept_writeGpr (setBus s _) rt _, writeGpr_cp0 _ _ _⟩

/-- Settles O34, one case per instruction. -/
theorem handlerWritesOneDestination : Obligations.HandlerWritesOneDestination := by
  unfold Obligations.HandlerWritesOneDestination
  intro i s t h
  cases i with
  | ori rs rt imm =>
    rw [exec_ori, Host.Outcome.next.injEq] at h
    exact h ▸ ⟨gprsSameExcept_writeGpr s rt _, writeGpr_cp0 s rt _⟩
  | lui rs rt imm =>
    rw [exec_lui, Host.Outcome.next.injEq] at h
    exact h ▸ ⟨gprsSameExcept_writeGpr s rt _, writeGpr_cp0 s rt _⟩
  | mtc0 sub rt rd low =>
    obtain ⟨c, hc, rfl⟩ := exec_mtc0_next_cases h
    exact ⟨fun j => readGpr_setCp0 s j c, fun hst => not_imp_comm.1 (writeReg_status_of_ne hc) hst,
      fun hcf => not_imp_comm.1 (writeReg_config_of_ne hc) hcf⟩
  | lw rs rt imm => exact execLw_next_frame h

/-! ### O50: the pc along a run -/

/-- 40_engine.md R114: the handlers leave the pc to the advance. -/
theorem exec_next_pc {i : Instr} {s t : State} (h : exec i s = .next t) :
    t.cpu.pc = s.cpu.pc :=
  exec_preserves (P := fun u => u.cpu.pc = s.cpu.pc)
    (fun u rt v hu => (writeGpr_pc u rt v).trans hu) (fun _ _ hu => hu) (fun _ _ _ _ _ hu => hu)
    rfl h

/-- 10_state.md R26: a completed step advances the pc by 4. -/
theorem step_next_pc {s t : State} (h : step s = .next t) : t.cpu.pc = s.cpu.pc + 4#64 := by
  obtain ⟨i, s1, t1, hf, he, rfl⟩ := step_next_cases h
  have hfetch : s1.cpu.pc = s.cpu.pc :=
    fetchInstr_preserves (P := fun u => u.cpu.pc = s.cpu.pc) (fun _ _ _ _ _ hu => hu) rfl hf
  rw [advance, setPc_pc, exec_next_pc he, hfetch]

/-- A run that completes is a completed first step and a completed rest. -/
theorem run_succ_done_cases {n : Nat} {s t : State} (h : run (n + 1) s = .done t) :
    ∃ u, step s = .next u ∧ run n u = .done t := by
  rw [run, stepEnd] at h
  cases hs : step s with
  | next u => exact ⟨u, rfl, by simpa only [hs, RunEnd.bind] using h⟩
  | fault f => simp [hs, RunEnd.bind] at h
  | refused r => simp [hs, RunEnd.bind] at h

/-- Settles O50, by induction on the number of steps. -/
theorem runAdvancesPcByFourPerStep : Obligations.RunAdvancesPcByFourPerStep := by
  unfold Obligations.RunAdvancesPcByFourPerStep
  intro n
  induction n with
  | zero =>
    intro s t h
    obtain rfl : s = t := RunEnd.done.inj h
    simp
  | succ n ih =>
    intro s t h
    obtain ⟨u, hu, hrun⟩ := run_succ_done_cases h
    rw [ih u t hrun, step_next_pc hu, BitVec.add_assoc, ← BitVec.ofNat_add, Nat.mul_succ,
      Nat.add_comm]

end Sys2Proof.Machine

namespace Sys2Proof.Machine

/-! ### O7 to O10: the CP0 encodings, field by field -/

/-- The fields Config has when it is decoded from `w` (10_state.md R33 to R36). -/
structure ConfigFields (w : Word32) (c : ConfigReg) : Prop where
  pattern : decodeDataTransferPattern (w.extractLsb' 24 4) = some c.dataTransferPattern
  endianness : c.endianness = if w.getLsbD 15 then .big else .little
  cu : c.cu = w.getLsbD 3
  kseg0CacheEnabled : c.kseg0CacheEnabled = (w.extractLsb' 0 3 != 0b010#3)

/-- 10_state.md R37: what it is for Config to decode. -/
theorem decodeConfig_eq_ok_iff {w : Word32} {c : ConfigReg} :
    decodeConfig w = .ok c ↔ ConfigFields w c := by
  unfold decodeConfig
  cases hp : decodeDataTransferPattern (w.extractLsb' 24 4) with
  | none => exact ⟨nofun, fun h => nomatch hp.symm.trans h.pattern⟩
  | some p =>
    constructor
    · intro h
      obtain rfl := Except.ok.inj h
      exact ⟨hp, rfl, rfl, rfl⟩
    · obtain ⟨p', e, cu, k⟩ := c
      rintro ⟨hp', rfl, rfl, rfl⟩
      obtain rfl : p = p' := Option.some.inj (hp.symm.trans hp')
      rfl

/-- The pattern and its four bits determine each other. -/
theorem decodeDataTransferPattern_eq_some_iff {f : BitVec 4} {p : DataTransferPattern} :
    decodeDataTransferPattern f = some p ↔
      f = match p with
        | .normal => 0#4
        | .dxxdxx => 6#4 := by
  cases p <;> revert f <;> decide

/-- Where R33 gives Config a pattern, the word decodes. -/
theorem decodeConfig_ok_of_pattern {w : Word32} {p : DataTransferPattern}
    (h : decodeDataTransferPattern (w.extractLsb' 24 4) = some p) :
    ∃ c, decodeConfig w = .ok c ∧ c.dataTransferPattern = p := by
  simp [decodeConfig, h]

/-- Settles O7: bits 27:24 alone decide whether Config decodes, and `ConfigFields` says how. -/
theorem configDecodeByFields : Obligations.ConfigDecodeByFields := by
  unfold Obligations.ConfigDecodeByFields
  intro w
  refine ⟨fun h => ?_, fun h => ?_, fun h0 h6 => ?_, fun c hc => ?_⟩
  · exact decodeConfig_ok_of_pattern (decodeDataTransferPattern_eq_some_iff.2 h)
  · exact decodeConfig_ok_of_pattern (decodeDataTransferPattern_eq_some_iff.2 h)
  · simp [decodeConfig, decodeDataTransferPattern, h0, h6]
  · obtain ⟨-, he, hcu, hk⟩ := decodeConfig_eq_ok_iff.1 hc
    exact ⟨fun h => by rw [he, h]; rfl, fun h => by rw [he, h]; rfl, hcu, by simp [hk]⟩

/-- The fields Status has when it is decoded from `w` (10_state.md R38 to R42). -/
structure StatusFields (w : Word32) (s : StatusReg) : Prop where
  cu : s.cu = #v[w.getLsbD 31, w.getLsbD 30, w.getLsbD 29, w.getLsbD 28]
  lowPower : s.lowPower = w.getLsbD 27
  additionalFpRegisters : s.additionalFpRegisters = w.getLsbD 26
  reverseEndian : s.reverseEndian = w.getLsbD 25
  ds : s.ds = decodeDiagnosticStatus w
  im : s.im = decodeInterruptMask w
  kernel64bitAddressing : s.kernel64bitAddressing = w.getLsbD 7
  supervisor64bitAddressing : s.supervisor64bitAddressing = w.getLsbD 6
  user64bitAddressing : s.user64bitAddressing = w.getLsbD 5
  ksu : decodeKsu (w.extractLsb' 3 2) = some s.ksu
  errorLevel : s.errorLevel = w.getLsbD 2
  exceptionLevel : s.exceptionLevel = w.getLsbD 1
  globalInterruptEnable : s.globalInterruptEnable = w.getLsbD 0

/-- 10_state.md R43: what it is for Status to decode. -/
theorem decodeStatus_eq_ok_iff {w : Word32} {s : StatusReg} :
    decodeStatus w = .ok s ↔ StatusFields w s := by
  unfold decodeStatus
  cases hm : decodeKsu (w.extractLsb' 3 2) with
  | none => exact ⟨nofun, fun h => nomatch hm.symm.trans h.ksu⟩
  | some m =>
    constructor
    · intro h
      obtain rfl := Except.ok.inj h
      exact ⟨rfl, rfl, rfl, rfl, rfl, rfl, rfl, rfl, rfl, hm, rfl, rfl, rfl⟩
    · obtain ⟨cu, lp, fr, re, ds, im, kx, sx, ux, m', erl, exl, ie⟩ := s
      rintro ⟨rfl, rfl, rfl, rfl, rfl, rfl, rfl, rfl, rfl, hm', rfl, rfl, rfl⟩
      obtain rfl : m = m' := Option.some.inj (hm.symm.trans hm')
      rfl

/-- The mode and its two bits determine each other. -/
theorem decodeKsu_eq_some_iff {m : BitVec 2} {k : Ksu} :
    decodeKsu m = some k ↔
      m = match k with
        | .kernel => 0b00#2
        | .supervisor => 0b01#2
        | .user => 0b10#2 := by
  cases k <;> revert m <;> decide

/-- 10_state.md R42: every mode but `11` decodes. -/
theorem decodeStatus_ok_of_ksu {w : Word32} (h : w.extractLsb' 3 2 ≠ 0b11#2) :
    ∃ s, decodeStatus w = .ok s := by
  obtain ⟨m, hm⟩ := Option.isSome_iff_exists.1 ((decodeKsu_isSome _).2 h)
  simp [decodeStatus, hm]

/-- Which mode a decoded Status holds, read off its word. -/
theorem StatusFields.ksu_eq_iff {w : Word32} {s : StatusReg} (h : StatusFields w s) (k : Ksu) :
    s.ksu = k ↔ decodeKsu (w.extractLsb' 3 2) = some k := by
  rw [h.ksu, Option.some.injEq]

/-- Settles O8: bits 4:3 alone decide whether Status decodes, and `StatusFields` says how. -/
theorem statusDecodeByFields : Obligations.StatusDecodeByFields := by
  unfold Obligations.StatusDecodeByFields
  intro w
  refine ⟨fun h => ?_, decodeStatus_ok_of_ksu, fun s hs => ?_⟩
  · have : decodeKsu (w.extractLsb' 3 2) = none := by rw [h]; rfl
    simp [decodeStatus, this]
  · have h := decodeStatus_eq_ok_iff.1 hs
    refine ⟨fun k => ?_, h.lowPower, h.additionalFpRegisters, h.reverseEndian,
      h.kernel64bitAddressing, h.supervisor64bitAddressing, h.user64bitAddressing, h.errorLevel,
      h.exceptionLevel, h.globalInterruptEnable, by rw [h.ds]; rfl, ?_, by rw [h.ds]; rfl,
      by rw [h.ds]; rfl, by rw [h.ds]; rfl, by rw [h.im]; rfl, fun k => ?_, fun k => ?_,
      (h.ksu_eq_iff _).trans decodeKsu_eq_some_iff, (h.ksu_eq_iff _).trans decodeKsu_eq_some_iff,
      (h.ksu_eq_iff _).trans decodeKsu_eq_some_iff⟩
    · rw [h.cu]
      fin_cases k <;> rfl
    · simp [h.ds, decodeDiagnosticStatus]
    · rw [h.im]
      fin_cases k <;> rfl
    · rw [h.im]
      fin_cases k <;> rfl

/-! ### O9: the round trips -/

/-- Config has 16 values, and each is the one its encoding gives. -/
theorem configFields_encodeConfig (c : ConfigReg) : ConfigFields (encodeConfig c) c := by
  obtain ⟨p, e, cu, k⟩ := c
  cases p <;> cases e <;> cases cu <;> cases k <;> exact ⟨rfl, rfl, rfl, rfl⟩

/-- 10_state.md R45: bit `k` of Status's word. -/
def statusBit (s : StatusReg) : Nat → Bool
  | 31 => s.cu[0]
  | 30 => s.cu[1]
  | 29 => s.cu[2]
  | 28 => s.cu[3]
  | 27 => s.lowPower
  | 26 => s.additionalFpRegisters
  | 25 => s.reverseEndian
  | 24 => s.ds.instructionTraceSupport
  | 22 => s.ds.exceptionVectorLocation == .bootstrap
  | 21 => s.ds.tlbShutdown
  | 20 => s.ds.softResetOrNmiOccurred
  | 18 => s.ds.conditionBit
  | 15 => s.im.timerInterrupt
  | 14 => s.im.externalInterruptWriteReq[4]
  | 13 => s.im.externalInterruptWriteReq[3]
  | 12 => s.im.externalInterruptWriteReq[2]
  | 11 => s.im.externalInterruptWriteReq[1]
  | 10 => s.im.externalInterruptWriteReq[0]
  | 9 => s.im.softwareInterruptCause[1]
  | 8 => s.im.softwareInterruptCause[0]
  | 7 => s.kernel64bitAddressing
  | 6 => s.supervisor64bitAddressing
  | 5 => s.user64bitAddressing
  | 4 => decide (s.ksu = .user)
  | 3 => decide (s.ksu = .supervisor)
  | 2 => s.errorLevel
  | 1 => s.exceptionLevel
  | 0 => s.globalInterruptEnable
  | _ => false

/-- The encoding puts together exactly these bits. -/
theorem getLsbD_encodeStatus (s : StatusReg) (k : Nat) (hk : k < 32 := by decide) :
    (encodeStatus s).getLsbD k = statusBit s k := by
  simp only [encodeStatus, encodeDiagnosticStatus, encodeInterruptMask, BitVec.getLsbD_or,
    getLsbD_bitAt, getLsbD_encodeKsu]
  interval_cases k <;> simp [statusBit]

theorem decodeDiagnosticStatus_encodeStatus (s : StatusReg) :
    decodeDiagnosticStatus (encodeStatus s) = s.ds := by
  have hloc : (if s.ds.exceptionVectorLocation == .bootstrap then .bootstrap else .normal) =
      s.ds.exceptionVectorLocation := by cases s.ds.exceptionVectorLocation <;> rfl
  simp (disch := decide) only [decodeDiagnosticStatus, getLsbD_encodeStatus, statusBit, hloc]

theorem decodeInterruptMask_encodeStatus (s : StatusReg) :
    decodeInterruptMask (encodeStatus s) = s.im := by
  have hext : #v[s.im.externalInterruptWriteReq[0], s.im.externalInterruptWriteReq[1],
      s.im.externalInterruptWriteReq[2], s.im.externalInterruptWriteReq[3],
      s.im.externalInterruptWriteReq[4]] = s.im.externalInterruptWriteReq := by
    ext k hk
    interval_cases k <;> rfl
  have hsoft : #v[s.im.softwareInterruptCause[0], s.im.softwareInterruptCause[1]] =
      s.im.softwareInterruptCause := by
    ext k hk
    interval_cases k <;> rfl
  simp (disch := decide) only [decodeInterruptMask, getLsbD_encodeStatus, statusBit, hext, hsoft]

theorem decodeKsu_encodeStatus (s : StatusReg) :
    decodeKsu ((encodeStatus s).extractLsb' 3 2) = some s.ksu := by
  rw [decodeKsu_eq_some_iff]
  refine BitVec.eq_of_getLsbD_eq fun k hk => ?_
  have h3 := getLsbD_encodeStatus s 3
  have h4 := getLsbD_encodeStatus s 4
  interval_cases k
  · simp only [BitVec.getLsbD_extractLsb', h3, statusBit]
    cases s.ksu <;> rfl
  · simp only [BitVec.getLsbD_extractLsb', h4, statusBit]
    cases s.ksu <;> rfl

/-- Each field of Status is the one its encoding gives. -/
theorem statusFields_encodeStatus (s : StatusReg) : StatusFields (encodeStatus s) s where
  cu := by
    simp (disch := decide) only [getLsbD_encodeStatus, statusBit]
    ext k hk
    interval_cases k <;> rfl
  lowPower := (getLsbD_encodeStatus s 27).symm
  additionalFpRegisters := (getLsbD_encodeStatus s 26).symm
  reverseEndian := (getLsbD_encodeStatus s 25).symm
  ds := (decodeDiagnosticStatus_encodeStatus s).symm
  im := (decodeInterruptMask_encodeStatus s).symm
  kernel64bitAddressing := (getLsbD_encodeStatus s 7).symm
  supervisor64bitAddressing := (getLsbD_encodeStatus s 6).symm
  user64bitAddressing := (getLsbD_encodeStatus s 5).symm
  ksu := decodeKsu_encodeStatus s
  errorLevel := (getLsbD_encodeStatus s 2).symm
  exceptionLevel := (getLsbD_encodeStatus s 1).symm
  globalInterruptEnable := (getLsbD_encodeStatus s 0).symm

/-- The mode tells the two bits it was decoded from. -/
theorem StatusFields.ksu_bits {w : Word32} {s : StatusReg} (h : StatusFields w s) :
    decide (s.ksu = .supervisor) = w.getLsbD 3 ∧ decide (s.ksu = .user) = w.getLsbD 4 := by
  have hm := decodeKsu_eq_some_iff.1 h.ksu
  have h3 : (w.extractLsb' 3 2).getLsbD 0 = w.getLsbD 3 := by
    simp only [BitVec.getLsbD_extractLsb']; rfl
  have h4 : (w.extractLsb' 3 2).getLsbD 1 = w.getLsbD 4 := by
    simp only [BitVec.getLsbD_extractLsb']; rfl
  rw [← h3, ← h4, hm]
  cases s.ksu <;> decide

/-- The vector location tells the bit it was decoded from. -/
theorem StatusFields.exceptionVectorLocation_bit {w : Word32} {s : StatusReg}
    (h : StatusFields w s) : (s.ds.exceptionVectorLocation == .bootstrap) = w.getLsbD 22 := by
  rw [h.ds, decodeDiagnosticStatus]
  cases w.getLsbD 22 <;> rfl

/-- The encoding of a decoded Status keeps the named bits of the word; the mask clears the others,
bits 23, 19, 17 and 16. -/
theorem statusBit_of_fields {w : Word32} {s : StatusReg} (h : StatusFields w s) {k : Nat}
    (hk : k < 32) : statusBit s k = (w &&& 0xFF74FFFF#32).getLsbD k := by
  obtain ⟨hsup, huser⟩ := h.ksu_bits
  have hloc := h.exceptionVectorLocation_bit
  obtain ⟨hcu, hlp, hfr, hre, hds, him, hkx, hsx, hux, -, herl, hexl, hie⟩ := h
  rw [BitVec.getLsbD_and]
  interval_cases k <;>
    simp only [statusBit, hsup, huser, hloc, hcu, hlp, hfr, hre, hkx, hsx, hux, herl, hexl, hie] <;>
    simp [hds, him, decodeDiagnosticStatus, decodeInterruptMask]

/-- 10_state.md R49: encoding a decoded word clears its unnamed bits and nothing else. -/
theorem encodeStatus_of_fields {w : Word32} {s : StatusReg} (h : StatusFields w s) :
    encodeStatus s = w &&& 0xFF74FFFF#32 :=
  BitVec.eq_of_getLsbD_eq fun k hk =>
    (getLsbD_encodeStatus s k hk).trans (statusBit_of_fields h hk)

/-- Words that agree on a mask agree on each of its bits. -/
theorem getLsbD_eq_of_and_eq {w w' m : Word32} (h : w &&& m = w' &&& m) {k : Nat}
    (hk : m.getLsbD k = true) : w.getLsbD k = w'.getLsbD k := by
  simpa only [BitVec.getLsbD_and, hk, Bool.and_true] using congrArg (BitVec.getLsbD · k) h

/-- Mask 0x0F00_8008 is bits 27:24, 15 and 3. -/
theorem configMask_eq_iff {w w' : Word32} :
    w &&& 0x0F008008#32 = w' &&& 0x0F008008#32 ↔
      w.extractLsb' 24 4 = w'.extractLsb' 24 4 ∧ w.getLsbD 15 = w'.getLsbD 15 ∧
        w.getLsbD 3 = w'.getLsbD 3 := by
  constructor
  · intro h
    refine ⟨BitVec.eq_of_getLsbD_eq fun k hk => ?_, getLsbD_eq_of_and_eq h (by decide),
      getLsbD_eq_of_and_eq h (by decide)⟩
    have hmask : (0x0F008008#32).getLsbD (24 + k) = true := by interval_cases k <;> decide
    rw [BitVec.getLsbD_extractLsb', BitVec.getLsbD_extractLsb', getLsbD_eq_of_and_eq h hmask]
  · rintro ⟨hpattern, h15, h3⟩
    have hbit (k : Nat) (hk : k < 4) : w.getLsbD (24 + k) = w'.getLsbD (24 + k) := by
      simpa [BitVec.getLsbD_extractLsb', hk] using congrArg (BitVec.getLsbD · k) hpattern
    have h24 : w.getLsbD 24 = w'.getLsbD 24 := hbit 0 (by decide)
    have h25 : w.getLsbD 25 = w'.getLsbD 25 := hbit 1 (by decide)
    have h26 : w.getLsbD 26 = w'.getLsbD 26 := hbit 2 (by decide)
    have h27 : w.getLsbD 27 = w'.getLsbD 27 := hbit 3 (by decide)
    refine BitVec.eq_of_getLsbD_eq fun k hk => ?_
    rw [BitVec.getLsbD_and, BitVec.getLsbD_and]
    interval_cases k <;> simp [-BitVec.getLsbD_eq_getElem, h3, h15, h24, h25, h26, h27]

/-- The words of one Config agree where a field reads them. -/
theorem configFields_agree {w w' : Word32} {c : ConfigReg} (h : ConfigFields w c)
    (h' : ConfigFields w' c) :
    w &&& 0x0F008008#32 = w' &&& 0x0F008008#32 ∧
      (w.extractLsb' 0 3 = 0b010#3 ↔ w'.extractLsb' 0 3 = 0b010#3) := by
  refine ⟨configMask_eq_iff.2 ⟨?_, ?_, h.cu.symm.trans h'.cu⟩, ?_⟩
  · rw [decodeDataTransferPattern_eq_some_iff.1 h.pattern,
      decodeDataTransferPattern_eq_some_iff.1 h'.pattern]
  · have he := h.endianness.symm.trans h'.endianness
    revert he
    generalize w.getLsbD 15 = b, w'.getLsbD 15 = b'
    revert b b'
    decide
  · have hk := h.kseg0CacheEnabled.symm.trans h'.kseg0CacheEnabled
    rw [Bool.eq_iff_iff, bne_iff_ne, bne_iff_ne] at hk
    exact not_iff_not.1 hk

/-- Words that agree where a field reads them have one Config. -/
theorem ConfigFields.of_agree {w w' : Word32} {c : ConfigReg} (h : ConfigFields w c)
    (hmask : w &&& 0x0F008008#32 = w' &&& 0x0F008008#32)
    (hk0 : w.extractLsb' 0 3 = 0b010#3 ↔ w'.extractLsb' 0 3 = 0b010#3) : ConfigFields w' c := by
  obtain ⟨hpattern, h15, h3⟩ := configMask_eq_iff.1 hmask
  obtain ⟨hp, he, hcu, hk⟩ := h
  refine ⟨hpattern ▸ hp, h15 ▸ he, h3 ▸ hcu, hk.trans ?_⟩
  rw [Bool.eq_iff_iff, bne_iff_ne, bne_iff_ne]
  exact not_congr hk0

/-- Settles O9: what a decode reads off an encoding, and what an encoding keeps of a word. -/
theorem cp0NamedFieldsRoundTrip : Obligations.Cp0NamedFieldsRoundTrip := by
  unfold Obligations.Cp0NamedFieldsRoundTrip
  refine ⟨fun c => decodeConfig_eq_ok_iff.2 (configFields_encodeConfig c),
    fun s => decodeStatus_eq_ok_iff.2 (statusFields_encodeStatus s),
    fun w s hs => encodeStatus_of_fields (decodeStatus_eq_ok_iff.1 hs), fun w c hc => ?_⟩
  exact configFields_agree (configFields_encodeConfig c) (decodeConfig_eq_ok_iff.1 hc)

/-! ### O10: the bits no field names -/

theorem writeReg_status {c : Cp0} {w : Word32} {st : StatusReg} (h : decodeStatus w = .ok st) :
    writeReg c statusIndex w = .ok { c with status := st } := by
  simp [writeReg, h, Except.map]

theorem writeReg_config {c : Cp0} {w : Word32} {cf : ConfigReg} (h : decodeConfig w = .ok cf) :
    writeReg c configIndex w = .ok { c with config := cf } := by
  have hne : configIndex ≠ statusIndex := by decide
  simp [writeReg, hne, h, Except.map]

/-- A Status is determined by its word's named bits: both words have the same encoding. -/
theorem decodeStatus_of_and_eq {w w' : Word32} {s : StatusReg}
    (hmask : w &&& 0xFF74FFFF#32 = w' &&& 0xFF74FFFF#32) (h : decodeStatus w = .ok s) :
    decodeStatus w' = .ok s := by
  have hksu : w.extractLsb' 3 2 = w'.extractLsb' 3 2 := by
    refine BitVec.eq_of_getLsbD_eq fun k hk => ?_
    have hbit : (0xFF74FFFF#32).getLsbD (3 + k) = true := by interval_cases k <;> decide
    rw [BitVec.getLsbD_extractLsb', BitVec.getLsbD_extractLsb', getLsbD_eq_of_and_eq hmask hbit]
  have hvalid : w'.extractLsb' 3 2 ≠ 0b11#2 := by
    rw [← hksu, ← decodeKsu_isSome, (decodeStatus_eq_ok_iff.1 h).ksu]
    rfl
  obtain ⟨s', h'⟩ := decodeStatus_ok_of_ksu hvalid
  have henc : encodeStatus s = encodeStatus s' := by
    rw [encodeStatus_of_fields (decodeStatus_eq_ok_iff.1 h), hmask,
      encodeStatus_of_fields (decodeStatus_eq_ok_iff.1 h')]
  have hround := decodeStatus_eq_ok_iff.2 (statusFields_encodeStatus s)
  rw [henc, decodeStatus_eq_ok_iff.2 (statusFields_encodeStatus s')] at hround
  rw [h', hround]

/-- Settles O10: words that agree on the named bits decode alike, so the writes are the same. -/
theorem cp0UnnamedBitsDiscarded : Obligations.Cp0UnnamedBitsDiscarded := by
  unfold Obligations.Cp0UnnamedBitsDiscarded
  refine ⟨fun c w w' hmask hksu => ?_, fun c w w' hmask hk0 hpattern => ?_⟩
  · obtain ⟨st, hst⟩ := decodeStatus_ok_of_ksu hksu
    exact ⟨_, writeReg_status hst, writeReg_status (decodeStatus_of_and_eq hmask hst)⟩
  · obtain ⟨p, hp⟩ :=
      Option.isSome_iff_exists.1 ((decodeDataTransferPattern_isSome _).2 hpattern)
    obtain ⟨cf, hcf, -⟩ := decodeConfig_ok_of_pattern hp
    have hcf' := (decodeConfig_eq_ok_iff.1 hcf).of_agree hmask hk0
    exact ⟨_, writeReg_config hcf, writeReg_config (decodeConfig_eq_ok_iff.2 hcf')⟩

end Sys2Proof.Machine

namespace Sys2Proof.Machine

/-! ### O15: translation -/

/-- R65: an address of kseg1 has selector `101` and all-ones upper half, so it is translated. -/
theorem translateAddr_of_inKseg1 {va : Word64} (h : InKseg1 va) :
    translateAddr va = some (kseg1Offset va) := by
  obtain ⟨hlo, hhi⟩ := h
  have hsel : segmentSelector va = 0b101#3 := by
    apply BitVec.eq_of_toNat_eq
    simp only [segmentSelector, BitVec.extractLsb'_toNat, BitVec.toNat_ofNat,
      Nat.shiftRight_eq_div_pow]
    omega
  have hupper : va.extractLsb' 32 32 = 0xFFFFFFFF#32 := by
    apply BitVec.eq_of_toNat_eq
    simp only [BitVec.extractLsb'_toNat, BitVec.toNat_ofNat, Nat.shiftRight_eq_div_pow]
    omega
  have hoffset : (va - kseg1Base).setWidth 32 = kseg1Offset va := by
    apply BitVec.eq_of_toNat_eq
    simp only [kseg1Offset, kseg1Base, BitVec.toNat_setWidth, BitVec.toNat_sub, BitVec.toNat_ofNat]
    omega
  simp [translateAddr, hsel, hupper, hoffset]

/-- R65: translation succeeds exactly on kseg1, and its result is the offset. -/
theorem translateAddr_eq_some_iff {va : Word64} {pa : PAddr} :
    translateAddr va = some pa ↔ InKseg1 va ∧ pa = kseg1Offset va := by
  constructor
  · intro h
    have hin : InKseg1 va := (translateAddr_toNat h).1
    exact ⟨hin, Option.some.inj (h.symm.trans (translateAddr_of_inKseg1 hin))⟩
  · rintro ⟨hin, rfl⟩
    exact translateAddr_of_inKseg1 hin

theorem translateAddr_eq_none_iff {va : Word64} : translateAddr va = none ↔ ¬ InKseg1 va := by
  rw [Option.eq_none_iff_forall_ne_some]
  exact ⟨fun h hin => h _ (translateAddr_of_inKseg1 hin),
    fun hout _ h => hout (translateAddr_toNat h).1⟩

/-- Settles O15: R66's bound follows from the offset, and another selector fails the first test. -/
theorem translateExactlyKseg1 : Obligations.TranslateExactlyKseg1 := by
  unfold Obligations.TranslateExactlyKseg1
  intro va pa
  refine ⟨translateAddr_eq_some_iff, fun h => ?_, fun hsel => ?_⟩
  · obtain ⟨⟨-, hhi⟩, hpa⟩ := translateAddr_toNat h
    omega
  · exact if_pos hsel

/-! ### The read in terms of the address

`memRead` said by `InKseg1`, `kseg1Offset` and `ReadServed` instead of the translator's tests. -/

/-- 20_memory.md R68: a served read gives the ordered word after one bus read. -/
theorem memRead_of_served {s : State} {va : Word64} {r : Word32} (word : Option Word32)
    (h : ReadServed s va r) :
    memRead va word s =
      .ok (order s.params.wordOrder r, setBus s (busAfterRead s.bus (kseg1Offset va))) := by
  obtain ⟨halign, hin, hanswer⟩ := h
  exact memRead_ok word ((aligned_iff va).2 halign) (translateAddr_of_inKseg1 hin) hanswer

/-- 20_memory.md R68: a read that succeeds was served. -/
theorem memRead_ok_served {va : Word64} {word : Option Word32} {s t : State} {w : Word32}
    (h : memRead va word s = .ok (w, t)) :
    ∃ r, ReadServed s va r ∧ w = order s.params.wordOrder r ∧
      t = setBus s (busAfterRead s.bus (kseg1Offset va)) := by
  obtain ⟨pa, r, halign, htr, hanswer, hw, ht⟩ := memRead_ok_cases h
  obtain ⟨hin, rfl⟩ := translateAddr_eq_some_iff.1 htr
  exact ⟨r, ⟨(aligned_iff va).1 halign, hin, hanswer⟩, hw, ht⟩

/-- Decision D8: a misaligned read faults before anything else. -/
theorem memRead_of_misaligned {va : Word64} (word : Option Word32) (s : State)
    (h : va.toNat % 4 ≠ 0) : memRead va word s = .error (.alignmentFault va s.cpu.pc word) := by
  simp [memRead, aligned_iff, h]

/-- Decision D6: an aligned read outside kseg1 faults before the bus read. -/
theorem memRead_of_not_inKseg1 {va : Word64} (word : Option Word32) (s : State)
    (halign : va.toNat % 4 = 0) (hout : ¬ InKseg1 va) :
    memRead va word s = .error (.translationFault va s.cpu.pc word) := by
  simp [memRead, aligned_iff, halign, translateAddr_eq_none_iff.2 hout]

/-! ### O20: a LW that faults before its bus read -/

/-- 20_memory.md R68, R75: a read that fails before the bus has one fault for every bus. -/
theorem memRead_error_of_unread {va : Word64} (word : Option Word32) (s : State)
    (h : va.toNat % 4 ≠ 0 ∨ ¬ InKseg1 va) :
    ∃ f, ∀ b, memRead va word (setBus s b) = .error f := by
  by_cases halign : va.toNat % 4 = 0
  · have hout : ¬ InKseg1 va := h.resolve_left (not_not.2 halign)
    exact ⟨.translationFault va s.cpu.pc word, fun b =>
      memRead_of_not_inKseg1 word (setBus s b) halign hout⟩
  · exact ⟨.alignmentFault va s.cpu.pc word, fun b =>
      memRead_of_misaligned word (setBus s b) halign⟩

/-- 43_load.md R150: a load whose read fails has the read's fault. -/
theorem execLw_of_memRead_error {rs rt : GprIdx} {imm : BitVec 16} {s : State} {f : Fault}
    (h : memRead (effectiveAddress s rs imm) (some (encode (.lw rs rt imm))) s = .error f) :
    execLw rs rt imm s = .fault f := by
  simp [execLw, h]

/-- Settles O20: the load has the read's fault, one for every bus, that of `s` among them. -/
theorem lwFaultBeforeBusIgnoresBus : Obligations.LwFaultBeforeBusIgnoresBus := by
  unfold Obligations.LwFaultBeforeBusIgnoresBus
  intro rs rt imm s b va hva hunread
  obtain rfl : va = effectiveAddress s rs imm := hva
  obtain ⟨f, hf⟩ := memRead_error_of_unread (some (encode (.lw rs rt imm))) s hunread
  have hfault (b' : Bus) : exec (.lw rs rt imm) (setBus s b') = .fault f :=
    execLw_of_memRead_error (hf b')
  exact (hfault b).trans (hfault s.bus).symm

/-! ### O35: the addresses a completed step asks -/

/-- 20_memory.md R75: an instruction other than LW performs no bus access. -/
theorem exec_next_bus_of_ne_lw {i : Instr} {s t : State} (hi : ∀ rs rt imm, i ≠ .lw rs rt imm)
    (h : exec i s = .next t) : t.bus = s.bus := by
  rcases exec_next_cases h with ⟨rt, v, rfl⟩ | ⟨c, rfl⟩ | ⟨rs, rt, imm, v, pa, rfl, -⟩
  · exact writeGpr_bus s rt v
  · exact setCp0_bus s c
  · exact absurd rfl (hi rs rt imm)

/-- 20_memory.md R75: a completed LW performs one bus read, at its effective address. -/
theorem execLw_next_bus {rs rt : GprIdx} {imm : BitVec 16} {s t : State}
    (h : execLw rs rt imm s = .next t) :
    t.bus = busAfterRead s.bus (kseg1Offset (effectiveAddress s rs imm)) := by
  obtain ⟨w, s1, hread, rfl⟩ := execLw_next_cases h
  obtain ⟨r, -, -, rfl⟩ := memRead_ok_served hread
  rw [writeGpr_bus, setBus_bus]

@[simp] theorem effectiveAddress_setBus (s : State) (b : Bus) (rs : GprIdx) (imm : BitVec 16) :
    effectiveAddress (setBus s b) rs imm = effectiveAddress s rs imm := rfl

@[simp] theorem advance_bus (s : State) : (advance s).bus = s.bus := rfl

/-- 40_engine.md R111, R112: a fetch and decode that completes was served a word that decodes. -/
theorem fetchInstr_ok_served {s s1 : State} {i : Instr} (h : fetchInstr s = .ok (i, s1)) :
    ∃ r, ReadServed s s.cpu.pc r ∧ decode (order s.params.wordOrder r) = .ok i ∧
      s1 = afterFetch s := by
  obtain ⟨w, hfetch, hdecode⟩ := fetchInstr_ok_cases h
  obtain ⟨r, hserved, rfl, rfl⟩ := memRead_ok_served hfetch
  exact ⟨r, hserved, hdecode, rfl⟩

/-- Settles O35: the fetch asks once, and execute asks again for LW alone. -/
theorem stepAsksExactlyItsReads : Obligations.StepAsksExactlyItsReads := by
  unfold Obligations.StepAsksExactlyItsReads
  intro s t h
  obtain ⟨i, s1, t1, hf, he, rfl⟩ := step_next_cases h
  obtain ⟨r, hserved, hdecode, rfl⟩ := fetchInstr_ok_served hf
  refine ⟨r, i, hserved, hdecode, ?_⟩
  cases i with
  | ori rs rt imm => simp [exec_next_bus_of_ne_lw (by simp) he, afterFetch]
  | lui rs rt imm => simp [exec_next_bus_of_ne_lw (by simp) he, afterFetch]
  | mtc0 sub rt rd low => simp [exec_next_bus_of_ne_lw (by simp) he, afterFetch]
  | lw rs rt imm => simp [execLw_next_bus he, afterFetch]

/-! ### O51: a placed word -/

/-- The next read at `pa` is answered by the word placed for it, from the map or as the first
pending answer. -/
theorem busAnswer_placeBusWord (b : Bus) (pa : PAddr) (w : Word32) :
    busAnswer (placeBusWord b pa w) pa = .word w := by
  cases h : b.answers with
  | nil =>
    refine busAnswer_of_map (w := w) ?_ ?_
    · simp [placeBusWord, h]
    · simp [placeBusWord, h, Memory.readWord_writeWord]
  | cons a l => exact busAnswer_of_answers (l := b.answers) pa (by simp [placeBusWord, h])

/-- A 32-bit word is placed as it stands. -/
theorem withFetchWord_toNat (s : State) (w : Word32) :
    s.withFetchWord 32 w.toNat = placeFetchWord s w := by
  simp [State.withFetchWord, Nat.mod_eq_of_lt w.isLt]

theorem placeFetchWord_of_inKseg1 {s : State} (w : Word32) (h : InKseg1 s.cpu.pc) :
    placeFetchWord s w =
      setBus s (placeBusWord s.bus (kseg1Offset s.cpu.pc) (order s.params.wordOrder w)) := by
  simp [placeFetchWord, translateAddr_of_inKseg1 h]

/-- Settles O51: the fetch is served the placed `order w`, and `Order` undoes itself. -/
theorem placedWordIsFetched : Obligations.PlacedWordIsFetched := by
  unfold Obligations.PlacedWordIsFetched
  intro s w halign hin
  rw [withFetchWord_toNat, placeFetchWord_of_inKseg1 w hin]
  have hserved : ReadServed
      (setBus s (placeBusWord s.bus (kseg1Offset s.cpu.pc) (order s.params.wordOrder w)))
      s.cpu.pc (order s.params.wordOrder w) :=
    ⟨halign, hin, busAnswer_placeBusWord _ _ _⟩
  have hfetch := memRead_of_served none hserved
  rw [setBus_params, order_order] at hfetch
  exact ⟨_, hfetch, rfl⟩

/-! ### O16: the word order -/

/-- Settles O16: byte `k` of the swapped word is reached past its `k` lower bytes. -/
theorem orderReversesBytes : Obligations.OrderReversesBytes := by
  unfold Obligations.OrderReversesBytes
  intro w
  refine ⟨rfl, fun k => ?_⟩
  unfold order
  match k with
  | 0 => exact BitVec.extractLsb'_append_eq_right
  | 1 =>
    rw [BitVec.extractLsb'_append_eq_of_le (by decide)]
    exact BitVec.extractLsb'_append_eq_right
  | 2 =>
    rw [BitVec.extractLsb'_append_eq_of_le (by decide),
      BitVec.extractLsb'_append_eq_of_le (by decide)]
    exact BitVec.extractLsb'_append_eq_right
  | 3 =>
    rw [BitVec.extractLsb'_append_eq_of_le (by decide),
      BitVec.extractLsb'_append_eq_of_le (by decide)]
    exact BitVec.extractLsb'_append_eq_left

end Sys2Proof.Machine

namespace Sys2Proof

open Laws.EncodesOpcode (opcodeOf)

/-! ### What decoding does, by the primary opcode (30_encoding.md R98, R99) -/

section decode
variable {w : Word32}

theorem decode_of_ori (h : opcodeField w = opcodeOri) :
    decode w = .ok (.ori (rsField w) (rtField w) (immField w)) := by
  rw [decode, h]
  rfl

theorem decode_of_lui (h : opcodeField w = opcodeLui) :
    decode w = .ok (.lui (bits25to21 w) (rtField w) (immField w)) := by
  rw [decode, h]
  rfl

theorem decode_of_mtc0 (h : opcodeField w = opcodeMtc0) :
    decode w = .ok (.mtc0 (bits25to21 w) (rtField w) (rdField w) (low11Field w)) := by
  rw [decode, h]
  rfl

theorem decode_of_lw (h : opcodeField w = opcodeLw) :
    decode w = .ok (.lw (rsField w) (rtField w) (immField w)) := by
  rw [decode, h]
  rfl

/-- An accepted word has the opcode of its instruction. -/
theorem opcodeField_of_decode {i : Instr} (h : decode w = .ok i) : opcodeField w = opcodeOf i := by
  rcases decode_ok_cases h with ⟨hop, rfl⟩ | ⟨hop, rfl⟩ | ⟨hop, rfl⟩ | ⟨hop, rfl⟩ <;> exact hop

/-- Every instruction has one of the four opcodes. -/
theorem opcodeOf_mem (i : Instr) : opcodeOf i ∈ [opcodeOri, opcodeLui, opcodeMtc0, opcodeLw] := by
  cases i <;> (simp only [opcodeOf]; decide)

/-- Exactly the words of the other opcodes are rejected. -/
theorem decode_eq_error_iff : decode w = .error (.unrecognizedInstruction w) ↔
    opcodeField w ∉ [opcodeOri, opcodeLui, opcodeMtc0, opcodeLw] := by
  constructor
  · intro h hop
    simp only [List.mem_cons, List.not_mem_nil, or_false] at hop
    rcases hop with hop | hop | hop | hop
    · simp [decode_of_ori hop] at h
    · simp [decode_of_lui hop] at h
    · simp [decode_of_mtc0 hop] at h
    · simp [decode_of_lw hop] at h
  · intro hop
    cases h : decode w with
    | error e => rw [decode_error_word h]
    | ok i => exact absurd (opcodeField_of_decode h ▸ opcodeOf_mem i) hop

end decode

/-! ### The rows of the opcode table (30_encoding.md R104) -/

/-- The table's mask keeps the opcode and clears the rest. -/
theorem and_opcodeMask (w : Word32) : w &&& 0xFC000000#32 = opcodeField w ++ 0#26 := by
  refine BitVec.eq_of_getLsbD_eq fun k hk => ?_
  simp only [opcodeField, BitVec.getLsbD_and, BitVec.getLsbD_append, BitVec.getLsbD_extractLsb']
  interval_cases k <;> simp

/-- Words agree under the table's mask exactly when they have one opcode. -/
theorem and_opcodeMask_eq_iff {w v : Word32} :
    w &&& 0xFC000000#32 = v &&& 0xFC000000#32 ↔ opcodeField w = opcodeField v := by
  rw [and_opcodeMask, and_opcodeMask]
  refine ⟨fun h => ?_, fun h => by rw [h]⟩
  simpa only [BitVec.extractLsb'_append_eq_left] using congrArg (BitVec.extractLsb' 26 6) h

/-- A well-formed row selects the words of its opcode. -/
theorem TableRow.selects_iff {r : TableRow} (hr : r.wellFormed = true) (w : Word32) :
    r.selects w = true ↔ opcodeField w = opcodeField r.matchBits := by
  simp only [TableRow.wellFormed, maskIsOpcode, matchInsideMask, Bool.and_eq_true,
    beq_iff_eq] at hr
  obtain ⟨hmask, hmatch⟩ := hr
  rw [← and_opcodeMask_eq_iff, ← hmask, hmatch, selects, beq_iff_eq]

theorem opcodeTable_wellFormed : ∀ r ∈ opcodeTable, r.wellFormed = true := by decide

/-- No opcode has two rows. -/
theorem opcodeTable_opcode_injective : ∀ r ∈ opcodeTable, ∀ q ∈ opcodeTable,
    opcodeField r.matchBits = opcodeField q.matchBits → r = q := by decide

/-- The row of a mnemonic holds the opcode of that instruction. -/
theorem opcodeOf_eq_of_mnemonic (i : Instr) :
    ∀ r ∈ opcodeTable, i.mnemonic = r.mnemonic → opcodeOf i = opcodeField r.matchBits := by
  cases i <;> (simp only [Instr.mnemonic, opcodeOf]; decide)

/-- Every instruction has its row. -/
theorem exists_row_of_mnemonic (i : Instr) : ∃ r ∈ opcodeTable, i.mnemonic = r.mnemonic := by
  cases i <;> (simp only [Instr.mnemonic]; decide)

/-- The opcode of a row decodes to the instruction the row names. -/
theorem decode_of_row {w : Word32} {r : TableRow} (hr : r ∈ opcodeTable)
    (h : opcodeField w = opcodeField r.matchBits) :
    ∃ i, decode w = .ok i ∧ i.mnemonic = r.mnemonic := by
  simp only [opcodeTable, List.mem_cons, List.not_mem_nil, or_false] at hr
  rcases hr with rfl | rfl | rfl | rfl
  · exact ⟨_, decode_of_ori h, rfl⟩
  · exact ⟨_, decode_of_lui h, rfl⟩
  · exact ⟨_, decode_of_mtc0 h, rfl⟩
  · exact ⟨_, decode_of_lw h, rfl⟩

/-- A row selects the words that decode to the instruction it names. -/
theorem selects_iff_decode {r : TableRow} (hr : r ∈ opcodeTable) (w : Word32) :
    r.selects w = true ↔ ∃ i, decode w = .ok i ∧ i.mnemonic = r.mnemonic := by
  rw [TableRow.selects_iff (opcodeTable_wellFormed r hr)]
  refine ⟨decode_of_row hr, ?_⟩
  rintro ⟨i, hi, hname⟩
  exact (opcodeField_of_decode hi).trans (opcodeOf_eq_of_mnemonic i r hr hname)

end Sys2Proof

namespace Sys2Proof.Machine

/-! ### O24, O25, O27: the words of instructions -/

/-- Settles O24: the word has its instruction's opcode, and each field reads back. -/
theorem decodeOfEncode : Obligations.DecodeOfEncode := by
  unfold Obligations.DecodeOfEncode
  intro i _
  cases i with
  | ori rs rt imm =>
    rw [encode, decode_of_ori (opcodeField_iType _ _ _ _)]
    simp
  | lui rs rt imm =>
    rw [encode, decode_of_lui (opcodeField_iType _ _ _ _)]
    simp
  | mtc0 sub rt rd low =>
    rw [encode, decode_of_mtc0 (opcodeField_cop0Type _ _ _ _ _)]
    simp
  | lw rs rt imm =>
    rw [encode, decode_of_lw (opcodeField_iType _ _ _ _)]
    simp

/-- Settles O25: an accepted word is its opcode and its fields put together again. -/
theorem encodeOfDecode : Obligations.EncodeOfDecode := by
  unfold Obligations.EncodeOfDecode
  intro w i h
  rcases decode_ok_cases h with ⟨hop, rfl⟩ | ⟨hop, rfl⟩ | ⟨hop, rfl⟩ | ⟨hop, rfl⟩
  · rw [encode, ← hop]
    exact iType_fields w
  · rw [encode, ← hop]
    exact iType_fields w
  · rw [encode, ← hop]
    exact cop0Type_fields w
  · rw [encode, ← hop]
    exact iType_fields w

/-- Settles O27, each word by the equation of its opcode. -/
theorem sampleWordsDecode : Obligations.SampleWordsDecode :=
  ⟨decode_of_ori rfl, decode_of_lui rfl, decode_of_mtc0 rfl, decode_of_lw rfl⟩

/-! ### O21, O22: dispatch -/

/-- 40_engine.md R112: a step whose fetched word is rejected faults with that word and the pc. -/
theorem step_of_rejected {s : State} {r w : Word32} (hserved : ReadServed s s.cpu.pc r)
    (hw : order s.params.wordOrder r = w)
    (hdecode : decode w = .error (.unrecognizedInstruction w)) :
    step s = .fault (.unrecognizedInstruction w s.cpu.pc) := by
  have hfetch : fetch s = .ok (w, afterFetch s) := hw ▸ memRead_of_served none hserved
  simp [step, fetchInstr, hfetch, hdecode]

/-- Settles O21: one equation of `decode` per opcode, and its rejection of the others. -/
theorem dispatchByPrimaryOpcode : Obligations.DispatchByPrimaryOpcode := by
  unfold Obligations.DispatchByPrimaryOpcode
  intro w
  refine ⟨decode_of_ori, decode_of_lui, decode_of_mtc0, decode_of_lw, fun hori hlui hmtc0 hlw => ?_⟩
  have hdecode : decode w = .error (.unrecognizedInstruction w) :=
    decode_eq_error_iff.2 (by
      simp only [List.mem_cons, List.not_mem_nil, or_false, not_or]
      exact ⟨hori, hlui, hmtc0, hlw⟩)
  exact ⟨hdecode, fun s r hserved hw => step_of_rejected hserved hw hdecode⟩

/-- Settles O22: `decode_eq_error_iff`, for the word a step fetches too. -/
theorem unrecognizedOpcodeIsFatal : Obligations.UnrecognizedOpcodeIsFatal := by
  unfold Obligations.UnrecognizedOpcodeIsFatal
  exact ⟨fun w => decode_eq_error_iff, decode_eq_error_iff.2 (by decide),
    fun s r w hserved hw hop => step_of_rejected hserved hw.symm (decode_eq_error_iff.2 hop)⟩

/-! ### O23: the opcode table -/

/-- Settles O23: rows select by opcode, and so does `decode`. -/
theorem opcodeTableAgreesWithDecode : Obligations.OpcodeTableAgreesWithDecode := by
  unfold Obligations.OpcodeTableAgreesWithDecode
  intro w
  refine ⟨fun r hr => selects_iff_decode hr w, fun r hr q hq hsr hsq => ?_, fun hnone => ?_⟩
  · rw [TableRow.selects_iff (opcodeTable_wellFormed r hr)] at hsr
    rw [TableRow.selects_iff (opcodeTable_wellFormed q hq)] at hsq
    exact opcodeTable_opcode_injective r hr q hq (hsr.symm.trans hsq)
  · cases h : decode w with
    | error e => rw [decode_error_word h]
    | ok i =>
      obtain ⟨r, hr, hname⟩ := exists_row_of_mnemonic i
      have hsel : r.selects w = true := (selects_iff_decode hr w).2 ⟨i, h, hname⟩
      simp [hnone r hr] at hsel

/-! ### O26: the ignored fields -/

theorem writeCp0_of_ok {index : Cp0Idx} {data : Word32} {s : State} {c : Cp0} (word : Word32)
    (h : writeReg s.cpu.cp0 index data = .ok c) :
    writeCp0 index data word s = .next (setCp0 s c) := by
  simp [writeCp0, h]

theorem writeCp0_of_error {index : Cp0Idx} {data : Word32} {s : State} {e : Cp0DecodeError}
    (word : Word32) (h : writeReg s.cpu.cp0 index data = .error e) :
    writeCp0 index data word s =
      .fault (.decodeError e.register e.field e.raw index word s.cpu.pc) := by
  simp [writeCp0, h]

/-- Settles O26: LUI's result has no ignored field in it, and MTC0's stand only in the word its
fault reports. -/
theorem ignoredFieldsHaveNoEffect : Obligations.IgnoredFieldsHaveNoEffect := by
  unfold Obligations.IgnoredFieldsHaveNoEffect
  refine ⟨fun rs rs' rt imm s => by rw [exec_lui, exec_lui], ?_, ?_⟩
  · intro sub sub' rt rd low low' s t h
    obtain ⟨c, hc, rfl⟩ := exec_mtc0_next_cases h
    rw [exec_mtc0, writeCp0_of_ok _ hc]
  · intro sub sub' rt rd low low' s register field raw word pc h
    rw [exec_mtc0] at h
    obtain ⟨e, he, hfault⟩ := writeCp0_fault_cases h
    simp only [Fault.decodeError.injEq] at hfault
    obtain ⟨rfl, rfl, rfl, -, -, rfl⟩ := hfault
    rw [exec_mtc0, writeCp0_of_error _ he]

/-! ### O3: the immediates -/

theorem getLsbD_oriImmediate (imm : BitVec 16) {k : Nat} (hk : k < 64) :
    (oriImmediate imm).getLsbD k = (decide (k < 16) && imm.getLsbD k) := by
  rw [oriImmediate_eq, BitVec.getLsbD_setWidth]
  by_cases h : k < 16
  · simp [h, hk]
  · simp [h, BitVec.getLsbD_of_ge imm k (by omega)]

theorem getLsbD_lwOffset (imm : BitVec 16) {k : Nat} (hk : k < 64) :
    (lwOffset imm).getLsbD k = if k < 16 then imm.getLsbD k else imm.getLsbD 15 := by
  rw [lwOffset, BitVec.getLsbD_signExtend, BitVec.msb_eq_getLsbD_last]
  simp [hk]

theorem getLsbD_luiImmediate (imm : BitVec 16) {k : Nat} (hk : k < 64) :
    (luiImmediate imm).getLsbD k =
      if k < 16 then false else if k < 32 then imm.getLsbD (k - 16) else imm.getLsbD 15 := by
  rw [luiImmediate_eq, BitVec.getLsbD_signExtend, BitVec.msb_eq_getLsbD_last]
  by_cases h16 : k < 16
  · simp [h16, hk, show k < 32 by omega]
  · by_cases h32 : k < 32
    · simp [h16, h32, hk]
    · simp [h16, h32, hk]

/-- Settles O3, from the bits of each immediate. -/
theorem immediateOperandBits : Obligations.ImmediateOperandBits := by
  unfold Obligations.ImmediateOperandBits
  exact fun imm k hk =>
    ⟨getLsbD_oriImmediate imm hk, getLsbD_luiImmediate imm hk, getLsbD_lwOffset imm hk⟩

end Sys2Proof.Machine

namespace Sys2Proof.Machine

/-! ### How a run ends -/

/-- 40_engine.md R122: an end with something after it is completed when both parts are. -/
theorem RunEnd.bind_eq_done_iff {e : RunEnd} {next : State → RunEnd} {t : State} :
    e.bind next = .done t ↔ ∃ u, e = .done u ∧ next u = .done t := by
  cases e <;> simp [RunEnd.bind]

/-- 60_exceptions.md R176: a fault is that of the first part, or that of what follows it. -/
theorem RunEnd.bind_eq_faulted_iff {e : RunEnd} {next : State → RunEnd} {f : Fault} {t : State} :
    e.bind next = .faulted f t ↔
      e = .faulted f t ∨ ∃ u, e = .done u ∧ next u = .faulted f t := by
  cases e <;> simp [RunEnd.bind]

theorem stepEnd_eq_done_iff {s t : State} : stepEnd s = .done t ↔ step s = .next t := by
  unfold stepEnd
  cases step s <;> simp

/-- 40_engine.md R115: a faulting step reports the state it started from. -/
theorem stepEnd_eq_faulted_iff {s t : State} {f : Fault} :
    stepEnd s = .faulted f t ↔ step s = .fault f ∧ s = t := by
  unfold stepEnd
  cases step s <;> simp

/-! ### O44: the invariant under the host's moves -/

/-- 70_reset_and_hazards.md R201: the boot vector is a multiple of 4, and reset writes nothing else
the invariant speaks of. -/
theorem inv_powerOnReset {s : State} (h : Inv s) : Inv (powerOnReset s) := by
  obtain ⟨hmem, -, hzero, hreads⟩ := h
  have hpc : bootVector.toNat % 4 = 0 := by decide
  exact ⟨hmem, hpc, hzero, hreads⟩

/-- A bus agent that keeps the map canonical and records no read of the core keeps the invariant. -/
theorem inv_setBus {s : State} {b : Bus} (h : Inv s) (hmem : b.mem.wf)
    (hreads : b.reads = s.bus.reads) : Inv (setBus s b) := by
  obtain ⟨-, hpc, hzero, hwindow⟩ := h
  refine ⟨hmem, hpc, hzero, ?_⟩
  rwa [ReadsInWindow, setBus_bus, hreads]

/-- 40_engine.md R123: each kind of move keeps the invariant. -/
theorem inv_hostMove {m : HostMove} {s t : State} (hs : Inv s) (h : hostMove m s = .done t) :
    Inv t := by
  have hmem : s.bus.mem.wf := hs.1
  cases m with
  | step => exact stepKeepsInvariant s t hs (stepEnd_eq_done_iff.1 h)
  | reset =>
    obtain rfl : powerOnReset s = t := RunEnd.done.inj h
    exact inv_powerOnReset hs
  | busWrite pa v =>
    obtain rfl := RunEnd.done.inj h
    exact inv_setBus hs (Memory.wf_write hmem pa.isLt) rfl
  | busUnmap pa =>
    obtain rfl := RunEnd.done.inj h
    exact inv_setBus hs (Memory.wf_erase hmem) rfl
  | busAnswers l =>
    obtain rfl := RunEnd.done.inj h
    exact inv_setBus hs hmem rfl

/-- Settles O44, by induction on the list of moves. -/
theorem hostMovesKeepInvariant : Obligations.HostMovesKeepInvariant := by
  unfold Obligations.HostMovesKeepInvariant
  intro ms
  induction ms with
  | nil =>
    intro s t hs h
    obtain rfl : s = t := RunEnd.done.inj h
    exact hs
  | cons m ms ih =>
    intro s t hs h
    rw [drive, RunEnd.bind_eq_done_iff] at h
    obtain ⟨u, hmove, hrest⟩ := h
    exact ih u t (inv_hostMove hs hmove) hrest

/-! ### O48: the first fault of a run -/

/-- A run whose first step completes ends as the rest does. -/
theorem run_succ_of_next {n : Nat} {s u : State} (h : step s = .next u) :
    run (n + 1) s = run n u := by
  rw [run, stepEnd_eq_done_iff.2 h, RunEnd.bind]

theorem run_succ_eq_faulted_iff {n : Nat} {s t : State} {f : Fault} :
    run (n + 1) s = .faulted f t ↔
      (step s = .fault f ∧ s = t) ∨ ∃ u, step s = .next u ∧ run n u = .faulted f t := by
  simp only [run, RunEnd.bind_eq_faulted_iff, stepEnd_eq_done_iff, stepEnd_eq_faulted_iff]

/-- Settles O48, by induction on the number of steps: the faulting step is the first, or it comes `k`
completed steps later in the rest of the run. -/
theorem runFaultsAtFirstFault : Obligations.RunFaultsAtFirstFault := by
  unfold Obligations.RunFaultsAtFirstFault
  intro n
  induction n with
  | zero => simp [run]
  | succ n ih =>
    intro s t f
    rw [run_succ_eq_faulted_iff]
    constructor
    · rintro (⟨hfault, rfl⟩ | ⟨u, hu, hrest⟩)
      · exact ⟨0, n.succ_pos, rfl, hfault⟩
      · obtain ⟨k, hk, hrun, hfault⟩ := (ih u t f).1 hrest
        exact ⟨k + 1, Nat.succ_lt_succ hk, (run_succ_of_next hu).trans hrun, hfault⟩
    · rintro ⟨k, hk, hrun, hfault⟩
      cases k with
      | zero =>
        obtain rfl : s = t := RunEnd.done.inj hrun
        exact .inl ⟨hfault, rfl⟩
      | succ k =>
        obtain ⟨u, hu, hrun⟩ := run_succ_done_cases hrun
        exact .inr ⟨u, hu, (ih u t f).2 ⟨k, Nat.lt_of_succ_lt_succ hk, hrun, hfault⟩⟩

/-! ### O28 to O30: the phases of a step -/

/-- 40_engine.md R111, R177: a fault of the fetch is the step's. -/
theorem step_of_fetch_error {s : State} {f : Fault} (h : fetch s = .error f) :
    step s = .fault f := by
  simp [step, fetchInstr, h]

/-- 40_engine.md R116: a step whose fetch is served a word that decodes executes it on the machine
after the fetch's read, and advances. -/
theorem step_of_decoded {s : State} {r : Word32} {i : Instr} (hserved : ReadServed s s.cpu.pc r)
    (hdecode : decode (order s.params.wordOrder r) = .ok i) :
    step s = advanceOutcome (exec i (afterFetch s)) := by
  have hfetch : fetch s = .ok (order s.params.wordOrder r, afterFetch s) :=
    memRead_of_served none hserved
  simp [step, fetchInstr, hfetch, hdecode]

@[simp] theorem afterFetch_pc (s : State) : (afterFetch s).cpu.pc = s.cpu.pc := rfl

/-- Settles O28: the handler leaves the pc to the advance. -/
theorem stepRunsDecodedInstruction : Obligations.StepRunsDecodedInstruction := by
  unfold Obligations.StepRunsDecodedInstruction
  intro s r i hserved hdecode _
  have hstep := step_of_decoded hserved hdecode
  refine ⟨fun t ht => ?_, fun f hf => ?_⟩
  · have hpc : t.cpu.pc = s.cpu.pc := (exec_next_pc ht).trans (afterFetch_pc s)
    rw [hstep, ht, advanceOutcome, advance, hpc]
  · rw [hstep, hf, advanceOutcome]

/-- 20_memory.md R68: an aligned read in kseg1 has the fault of the bus that fails it. -/
theorem memRead_of_busFailure {s : State} {va : Word64} {e : BusFailure} (word : Option Word32)
    (halign : va.toNat % 4 = 0) (hin : InKseg1 va)
    (hanswer : busAnswer s.bus (kseg1Offset va) = .failure e) :
    memRead va word s = .error (.busFault (kseg1Offset va) s.cpu.pc word e) := by
  simp [memRead, aligned_iff, halign, translateAddr_of_inKseg1 hin, hanswer]

/-- Settles O29: the fetch is a read at the pc without a word, and its faults are that read's. -/
theorem fetchFaultsInOrder : Obligations.FetchFaultsInOrder := by
  unfold Obligations.FetchFaultsInOrder
  intro s
  refine ⟨fun hmis => ?_, fun halign hout => ?_, fun halign hin e hanswer => ?_⟩
  · exact step_of_fetch_error (memRead_of_misaligned none s hmis)
  · exact step_of_fetch_error (memRead_of_not_inKseg1 none s halign hout)
  · exact step_of_fetch_error (memRead_of_busFailure none halign hin hanswer)

/-- Settles O30: neither the fetch nor a handler writes the pc, and the advance adds 4. -/
theorem completedStepAdvancesPcByFour : Obligations.CompletedStepAdvancesPcByFour := by
  unfold Obligations.CompletedStepAdvancesPcByFour
  intro s t h
  exact step_next_pc h

end Sys2Proof.Machine

namespace Sys2Proof.Machine

/-! ### The I-type word by its parts (30_encoding.md R92) -/

/-- The concatenation of the format is the bitwise OR of its shifted fields. -/
theorem iType_eq_or (op : BitVec 6) (rs rt : BitVec 5) (imm : BitVec 16) :
    iType op rs rt imm =
      op ++ 0#26 ||| rs.setWidth 32 <<< 21 ||| rt.setWidth 32 <<< 16 ||| imm.setWidth 32 := by
  refine BitVec.eq_of_getLsbD_eq fun k hk => ?_
  simp only [iType, BitVec.getLsbD_or, BitVec.getLsbD_append, BitVec.getLsbD_shiftLeft,
    BitVec.getLsbD_setWidth]
  interval_cases k <;> simp

theorem setWidth_regBits (r : GprIdx) : (regBits r).setWidth 32 = BitVec.ofNat 32 r := by
  refine BitVec.eq_of_toNat_eq ?_
  rw [BitVec.toNat_setWidth, BitVec.toNat_ofNat, regBits, BitVec.toNat_ofFin]

theorem opcodeOri_append_zero : opcodeOri ++ 0#26 = 0x34000000#32 := by decide

theorem opcodeLui_append_zero : opcodeLui ++ 0#26 = 0x3C000000#32 := by decide

/-- A word that is `v` under the opcode table's mask has the opcode of `v`. -/
theorem opcodeField_of_and_opcodeMask {w v : Word32} (h : w &&& 0xFC000000#32 = v)
    (hv : v &&& 0xFC000000#32 = v) : opcodeField w = opcodeField v :=
  and_opcodeMask_eq_iff.1 (h.trans hv.symm)

/-! ### The write of one register -/

/-- 10_state.md R23: a second write of a register hides the first. -/
theorem writeGpr_writeGpr (s : State) (i : GprIdx) (v x : Word64) :
    writeGpr (writeGpr s i v) i x = writeGpr s i x := by
  unfold writeGpr
  split
  case isTrue => rfl
  case isFalse => simp

/-- A register write leaves everything but its register. -/
theorem writeGpr_frame (s : State) (rt : GprIdx) (v : Word64) :
    GprsSameExcept rt s (writeGpr s rt v) ∧ UnusedSame s (writeGpr s rt v) ∧
    MemorySame s (writeGpr s rt v) ∧ (writeGpr s rt v).cpu.pc = s.cpu.pc ∧
    (writeGpr s rt v).cpu.cp0 = s.cpu.cp0 ∧ (writeGpr s rt v).bus = s.bus :=
  ⟨gprsSameExcept_writeGpr s rt v, unusedSame_writeGpr rt v (unusedSame_refl s),
    memorySame_writeGpr rt v fun _ => rfl, writeGpr_pc s rt v, writeGpr_cp0 s rt v,
    writeGpr_bus s rt v⟩

/-- 10_state.md R23: a write of register 0 is no write. -/
theorem writeGpr_eq_self {rt : GprIdx} (h : rt = 0) (s : State) (v : Word64) :
    writeGpr s rt v = s := if_pos h

/-! ### O4: ORI -/

/-- The zero-extended immediate has no bit above 15. -/
theorem extractLsb'_or_oriImmediate (x : Word64) (imm : BitVec 16) :
    (x ||| oriImmediate imm).extractLsb' 16 48 = x.extractLsb' 16 48 := by
  refine BitVec.eq_of_getLsbD_eq fun k hk => ?_
  have himm : (oriImmediate imm).getLsbD (16 + k) = false := by
    rw [getLsbD_oriImmediate imm (by omega)]
    simp
  simp [himm]

/-- Settles O4: the word by its parts, the decoding by its opcode, and the meaning as one register
write. -/
theorem oriResultAndFrame : Obligations.OriResultAndFrame := by
  unfold Obligations.OriResultAndFrame
  refine ⟨fun rs rt imm => ?_, fun w hw => ?_, fun rs rt imm s => ?_⟩
  · rw [encode, iType_eq_or, opcodeOri_append_zero, setWidth_regBits, setWidth_regBits]
  · exact decode_of_ori (opcodeField_of_and_opcodeMask hw (by decide))
  · have hread (h : rt ≠ 0) := readGpr_writeGpr_self s rt (readGpr s rs ||| oriImmediate imm) h
    exact ⟨_, exec_ori rs rt imm s, hread,
      fun h => by rw [hread h, extractLsb'_or_oriImmediate],
      fun h => writeGpr_eq_self h s _, writeGpr_frame s rt _⟩

/-! ### O5: LUI -/

theorem extractLsb'_luiImmediate_zero (imm : BitVec 16) :
    (luiImmediate imm).extractLsb' 0 16 = 0#16 := by
  refine BitVec.eq_of_getLsbD_eq fun k hk => ?_
  rw [BitVec.getLsbD_extractLsb', getLsbD_luiImmediate imm (by omega)]
  simp [hk]

theorem extractLsb'_luiImmediate_imm (imm : BitVec 16) :
    (luiImmediate imm).extractLsb' 16 16 = imm := by
  refine BitVec.eq_of_getLsbD_eq fun k hk => ?_
  rw [BitVec.getLsbD_extractLsb', getLsbD_luiImmediate imm (by omega)]
  simp [hk, show 16 + k < 32 by omega]

theorem extractLsb'_luiImmediate_sign (imm : BitVec 16) :
    (luiImmediate imm).extractLsb' 32 32 =
      if imm.getLsbD 15 then 0xFFFFFFFF#32 else 0#32 := by
  refine BitVec.eq_of_getLsbD_eq fun k hk => ?_
  have hones : (0xFFFFFFFF#32)[k] = true := BitVec.getElem_allOnes k hk
  rw [BitVec.getLsbD_extractLsb', getLsbD_luiImmediate imm (by omega), if_neg (by omega),
    if_neg (by omega)]
  cases imm.getLsbD 15 <;> simp [hk, hones]

/-- Settles O5: the word by its parts, the decoding by its opcode, and the meaning as one register
write of an operand without `rs` in it. -/
theorem luiResultAndFrame : Obligations.LuiResultAndFrame := by
  unfold Obligations.LuiResultAndFrame
  refine ⟨fun rs rt imm => ?_, fun w hw => ?_, fun rs rt imm s => ?_⟩
  · rw [encode, iType_eq_or, opcodeLui_append_zero, setWidth_regBits]
  · exact decode_of_lui (opcodeField_of_and_opcodeMask hw (by decide))
  · refine ⟨_, exec_lui rs rt imm s, fun rs' => exec_lui rs' rt imm s, fun h => ?_,
      fun h => writeGpr_eq_self h s _, writeGpr_frame s rt _⟩
    rw [readGpr_writeGpr_self s rt _ h]
    exact ⟨extractLsb'_luiImmediate_zero imm, extractLsb'_luiImmediate_imm imm,
      extractLsb'_luiImmediate_sign imm⟩

/-! ### O6: LUI, then ORI -/

/-- 41_immediate_alu.md R133: the two operands make the sign extension of the constant. -/
theorem luiImmediate_or_oriImmediate (hi lo : BitVec 16) :
    luiImmediate hi ||| oriImmediate lo = (hi ++ lo : BitVec 32).signExtend 64 := by
  refine BitVec.eq_of_getLsbD_eq fun k hk => ?_
  rw [BitVec.getLsbD_or, getLsbD_luiImmediate hi hk, getLsbD_oriImmediate lo hk,
    BitVec.getLsbD_signExtend, BitVec.msb_eq_getLsbD_last, BitVec.getLsbD_append,
    BitVec.getLsbD_append]
  by_cases h16 : k < 16
  · simp [h16, hk, show k < 32 by omega]
  · by_cases h32 : k < 32 <;> simp [h16, h32, hk]

/-- Settles O6: the second write hides the first, so the pair is one write of ORI's result. -/
theorem luiThenOriBuildsConstant : Obligations.LuiThenOriBuildsConstant := by
  unfold Obligations.LuiThenOriBuildsConstant
  intro rs rt hi lo s
  refine ⟨_, _, exec_lui rs rt hi s, exec_ori rt rt lo _, ?_⟩
  rw [writeGpr_writeGpr]
  obtain ⟨hgprs, hunused, -, hpc, hcp0, hbus⟩ := writeGpr_frame s rt
    (readGpr (writeGpr s rt (luiImmediate hi)) rt ||| oriImmediate lo)
  refine ⟨?_, hgprs, hunused, hpc, hcp0, hbus⟩
  split
  case isTrue h => rw [h]; rfl
  case isFalse h =>
    rw [readGpr_writeGpr_self s rt _ h, readGpr_writeGpr_self s rt _ h,
      luiImmediate_or_oriImmediate]

end Sys2Proof.Machine

namespace Sys2Proof.Machine

/-! ### The COP0 move word by its parts (30_encoding.md R93) -/

/-- The concatenation of the format is the bitwise OR of its shifted fields. -/
theorem cop0Type_eq_or (op : BitVec 6) (sub rt rd : BitVec 5) (low : BitVec 11) :
    cop0Type op sub rt rd low =
      op ++ 0#26 ||| sub.setWidth 32 <<< 21 ||| rt.setWidth 32 <<< 16 |||
        rd.setWidth 32 <<< 11 ||| low.setWidth 32 := by
  refine BitVec.eq_of_getLsbD_eq fun k hk => ?_
  simp only [cop0Type, BitVec.getLsbD_or, BitVec.getLsbD_append, BitVec.getLsbD_shiftLeft,
    BitVec.getLsbD_setWidth]
  interval_cases k <;> simp

theorem opcodeMtc0_append_zero : opcodeMtc0 ++ 0#26 = 0x40000000#32 := by decide

/-! ### The bank writes that replace nothing -/

/-- 10_state.md R46: a Status word that does not decode is not written. -/
theorem writeReg_status_of_error {w : Word32} {e : Cp0DecodeError} (c : Cp0)
    (h : decodeStatus w = .error e) : writeReg c statusIndex w = .error e := by
  simp [writeReg, h, Except.map]

/-- 10_state.md R46: a Config word that does not decode is not written. -/
theorem writeReg_config_of_error {w : Word32} {e : Cp0DecodeError} (c : Cp0)
    (h : decodeConfig w = .error e) : writeReg c configIndex w = .error e := by
  have hne : configIndex ≠ statusIndex := by decide
  simp [writeReg, hne, h, Except.map]

/-- 10_state.md R47: a write of any other index is accepted and ignored. -/
theorem writeReg_unmodelled {index : Cp0Idx} (c : Cp0) (w : Word32) (hst : index ≠ statusIndex)
    (hcf : index ≠ configIndex) : writeReg c index w = .ok c := by
  simp [writeReg, hst, hcf]

/-- 10_state.md R33: Config does not decode from a word without one of the two patterns. -/
theorem decodeConfig_of_not_pattern {w : Word32} (h0 : w.extractLsb' 24 4 ≠ 0#4)
    (h6 : w.extractLsb' 24 4 ≠ 6#4) :
    decodeConfig w = .error ⟨.config, .dataTransferPattern, w⟩ := by
  obtain ⟨-, -, herror, -⟩ := configDecodeByFields w
  exact herror h0 h6

/-- 10_state.md R33: Config decodes from a word with either pattern. -/
theorem decodeConfig_ok_of_bits {w : Word32}
    (h : w.extractLsb' 24 4 = 0#4 ∨ w.extractLsb' 24 4 = 6#4) :
    ∃ c, decodeConfig w = .ok c := by
  obtain ⟨p, hp⟩ := Option.isSome_iff_exists.1 ((decodeDataTransferPattern_isSome _).2 h)
  obtain ⟨c, hc, -⟩ := decodeConfig_ok_of_pattern hp
  exact ⟨c, hc⟩

/-- 10_state.md R42: Status does not decode from a word whose mode is `11`. -/
theorem decodeStatus_of_ksu_three {w : Word32} (h : w.extractLsb' 3 2 = 0b11#2) :
    decodeStatus w = .error ⟨.status, .ksu, w⟩ := by
  obtain ⟨herror, -⟩ := statusDecodeByFields w
  exact herror h

/-! ### MTC0 by the index it writes (42_cop0_move.md R140) -/

section mtc0
variable {rt : GprIdx} {s : State} (sub : BitVec 5) (low : BitVec 11)

/-- MTC0 completes where its bank write does. -/
theorem exec_mtc0_of_ok {rd : Cp0Idx} {c : Cp0}
    (h : writeReg s.cpu.cp0 rd (mtc0Operand s rt) = .ok c) :
    exec (.mtc0 sub rt rd low) s = .next (setCp0 s c) :=
  writeCp0_of_ok _ h

/-- MTC0 faults where its bank write fails, with its own word and the pc. -/
theorem exec_mtc0_of_error {rd : Cp0Idx} {e : Cp0DecodeError}
    (h : writeReg s.cpu.cp0 rd (mtc0Operand s rt) = .error e) :
    exec (.mtc0 sub rt rd low) s = .fault (.decodeError e.register e.field e.raw rd
      (encode (.mtc0 sub rt rd low)) s.cpu.pc) :=
  writeCp0_of_error _ h

theorem exec_mtc0_status {st : StatusReg} (h : decodeStatus (mtc0Operand s rt) = .ok st) :
    exec (.mtc0 sub rt statusIndex low) s =
      .next (setCp0 s { config := s.cpu.cp0.config, status := st }) :=
  exec_mtc0_of_ok sub low (writeReg_status h)

theorem exec_mtc0_config {cf : ConfigReg} (h : decodeConfig (mtc0Operand s rt) = .ok cf) :
    exec (.mtc0 sub rt configIndex low) s =
      .next (setCp0 s { config := cf, status := s.cpu.cp0.status }) :=
  exec_mtc0_of_ok sub low (writeReg_config h)

/-- MTC0 to an index that holds no state changes nothing. -/
theorem exec_mtc0_unmodelled {rd : Cp0Idx} (rt : GprIdx) (s : State) (hst : rd ≠ statusIndex)
    (hcf : rd ≠ configIndex) : exec (.mtc0 sub rt rd low) s = .next s :=
  exec_mtc0_of_ok sub low (writeReg_unmodelled _ _ hst hcf)

end mtc0

/-! ### O12: MTC0 -/

/-- Settles O12: the word by its parts, the decoding by its opcode, and the meaning by the index
written and by whether the operand decodes. -/
theorem mtc0ResultAndFaults : Obligations.Mtc0ResultAndFaults := by
  unfold Obligations.Mtc0ResultAndFaults
  refine ⟨fun sub rt rd low => ?_, fun w hw => ?_, fun sub rt rd low s v hv => ?_⟩
  · rw [encode, cop0Type_eq_or, opcodeMtc0_append_zero, setWidth_regBits, setWidth_regBits]
  · exact decode_of_mtc0 (opcodeField_of_and_opcodeMask hw (by decide))
  · obtain rfl : v = mtc0Operand s rt := hv
    refine ⟨?_, ?_, ?_, ?_, exec_mtc0_unmodelled sub low rt s⟩
    · rintro rfl hksu
      obtain ⟨st, hst⟩ := decodeStatus_ok_of_ksu hksu
      exact ⟨st, hst, exec_mtc0_status sub low hst⟩
    · rintro rfl hksu
      exact exec_mtc0_of_error sub low
        (writeReg_status_of_error _ (decodeStatus_of_ksu_three hksu))
    · rintro rfl hpattern
      obtain ⟨cf, hcf⟩ := decodeConfig_ok_of_bits hpattern
      exact ⟨cf, hcf, exec_mtc0_config sub low hcf⟩
    · rintro rfl h0 h6
      exact exec_mtc0_of_error sub low
        (writeReg_config_of_error _ (decodeConfig_of_not_pattern h0 h6))

/-! ### O14: the words MIPS reads as other COP0 instructions -/

/-- 42_cop0_move.md R141: a COP0 word whose `rd` field names an index without state decodes to an
instruction that changes nothing. -/
theorem decode_cop0_unmodelled {w : Word32} (hop : opcodeField w = opcodeMtc0)
    (hst : rdField w ≠ statusIndex) (hcf : rdField w ≠ configIndex) :
    ∃ i, decode w = .ok i ∧ ∀ s : State, exec i s = .next s :=
  ⟨_, decode_of_mtc0 hop, fun s => exec_mtc0_unmodelled _ _ _ s hst hcf⟩

/-- R141's words for BC0F, TLBR, TLBWI, TLBWR, TLBP and ERET are COP0 words that name neither Status
nor Config. -/
theorem mipsCop0Words_name_no_register : ∀ w ∈ [0x41000003#32, 0x42000001#32, 0x42000002#32,
    0x42000006#32, 0x42000008#32, 0x42000018#32],
    opcodeField w = opcodeMtc0 ∧ rdField w ≠ statusIndex ∧ rdField w ≠ configIndex :=
  List.forall_iff_forall_mem.1 (by decide)

/-- Settles O14: the moves are MTC0 with another ignored field, and the rest name no register. -/
theorem mipsCop0WordsAreMtc0 : Obligations.MipsCop0WordsAreMtc0 := by
  unfold Obligations.MipsCop0WordsAreMtc0
  refine ⟨decode_of_mtc0 rfl, decode_of_mtc0 rfl, decode_of_mtc0 rfl, fun w hw => ?_, ?_, ?_⟩
  · obtain ⟨hop, hst, hcf⟩ := mipsCop0Words_name_no_register w hw
    exact decode_cop0_unmodelled hop hst hcf
  · rintro s _ _ st rfl hst rfl
    exact ⟨exec_mtc0_status 0 0 hst, exec_mtc0_status 5 0 hst, exec_mtc0_status 4 0 hst⟩
  · rintro s _ _ cf rfl hcf rfl
    exact exec_mtc0_config 1 0 hcf

end Sys2Proof.Machine

namespace Sys2Proof.Machine

/-! ### O17: LW -/

theorem opcodeLw_append_zero : opcodeLw ++ 0#26 = 0x8C000000#32 := by decide

/-- 43_load.md R150: a load whose read is served writes the ordered word, sign-extended, on the
machine after that read. -/
theorem exec_lw_of_served {rs : GprIdx} {imm : BitVec 16} {s : State} {r : Word32} (rt : GprIdx)
    (h : ReadServed s (effectiveAddress s rs imm) r) :
    exec (.lw rs rt imm) s =
      .next (writeGpr (setBus s (busAfterRead s.bus (kseg1Offset (effectiveAddress s rs imm)))) rt
        (loadedValue (order s.params.wordOrder r))) := by
  rw [exec_lw, execLw, memRead_of_served _ h]

/-- Settles O17: the word by its parts, the decoding by its opcode, and the meaning as one bus read
and then one register write. -/
theorem lwLoadsAndFrame : Obligations.LwLoadsAndFrame := by
  unfold Obligations.LwLoadsAndFrame
  refine ⟨fun rs rt imm => ?_, fun w hw => ?_, fun rs rt imm s va r hva hserved => ?_⟩
  · rw [encode, iType_eq_or, opcodeLw_append_zero, setWidth_regBits, setWidth_regBits]
  · exact decode_of_lw (opcodeField_of_and_opcodeMask hw (by decide))
  · obtain rfl : va = effectiveAddress s rs imm := hva
    obtain ⟨hgprs, hunused, hmem, hpc, hcp0, hbus⟩ := writeGpr_frame
      (setBus s (busAfterRead s.bus (kseg1Offset (effectiveAddress s rs imm)))) rt
      (loadedValue (order s.params.wordOrder r))
    exact ⟨_, exec_lw_of_served rt hserved, readGpr_writeGpr_self _ rt _, rfl, hgprs, hunused, hmem,
      hpc, hcp0, congrArg Bus.answers hbus, congrArg Bus.reads hbus⟩

/-! ### O18: LW's faults -/

/-- Settles O18: a load's faults are those of the read at its effective address, with its word. -/
theorem lwFaultsInOrder : Obligations.LwFaultsInOrder := by
  unfold Obligations.LwFaultsInOrder
  intro rs rt imm s va hva
  obtain rfl : va = effectiveAddress s rs imm := hva
  refine ⟨fun hmis => ?_, fun halign hout => ?_, fun halign hin e hanswer => ?_⟩
  · exact execLw_of_memRead_error (memRead_of_misaligned _ s hmis)
  · exact execLw_of_memRead_error (memRead_of_not_inKseg1 _ s halign hout)
  · exact execLw_of_memRead_error (memRead_of_busFailure _ halign hin hanswer)

/-! ### O19: LW with base `$0` -/

/-- 30_encoding.md R96: the offset is the immediate itself, or, for a negative one, `2^64 - 2^16`
more. -/
theorem toNat_lwOffset (imm : BitVec 16) :
    (lwOffset imm).toNat = imm.toNat + if imm.msb then 2 ^ 64 - 2 ^ 16 else 0 := by
  rw [lwOffset, BitVec.toNat_signExtend, BitVec.toNat_setWidth_of_le (by decide)]

theorem lwOffset_mod_four (imm : BitVec 16) : (lwOffset imm).toNat % 4 = imm.toNat % 4 := by
  rw [toNat_lwOffset]
  split <;> omega

/-- 43_load.md R150 (corner case): an offset is one of the first or of the last `2^16` addresses,
below kseg1 or above it. -/
theorem lwOffset_not_inKseg1 (imm : BitVec 16) : ¬ InKseg1 (lwOffset imm) := by
  have hlt : imm.toNat < 2 ^ 16 := imm.isLt
  rw [InKseg1, toNat_lwOffset]
  split <;> omega

/-- 10_state.md R22: with base `$0` the effective address is the offset. -/
theorem effectiveAddress_zero (s : State) (imm : BitVec 16) :
    effectiveAddress s 0 imm = lwOffset imm := BitVec.zero_add _

/-- Settles O19: the address is the offset, which is aligned when the immediate is and is never in
kseg1, so O18 names the fault. -/
theorem lwFromRegisterZeroFaults : Obligations.LwFromRegisterZeroFaults := by
  unfold Obligations.LwFromRegisterZeroFaults
  intro rt imm s
  obtain ⟨hmisaligned, htranslation, -⟩ :=
    lwFaultsInOrder 0 rt imm s (lwOffset imm) (effectiveAddress_zero s imm).symm
  rw [lwOffset_mod_four] at hmisaligned htranslation
  exact ⟨fun halign => htranslation halign (lwOffset_not_inKseg1 imm), hmisaligned⟩

end Sys2Proof.Machine

namespace Sys2Proof.Machine

/-! ### O49: nothing follows a fault -/

theorem RunEnd.bind_bind (e : RunEnd) (next after : State → RunEnd) :
    (e.bind next).bind after = e.bind fun s => (next s).bind after := by
  cases e <;> rfl

/-- 40_engine.md R123: a sequence of moves in two parts is the second after the end of the first. -/
theorem drive_append (ms ms' : List HostMove) (s : State) :
    drive (ms ++ ms') s = (drive ms s).bind (drive ms') := by
  induction ms generalizing s with
  | nil => rfl
  | cons m ms ih => rw [List.cons_append, drive, drive, RunEnd.bind_bind, funext ih]

/-- Settles O49: the longer sequence is bound to the faulted end of the shorter one, and nothing
follows a fault. -/
theorem faultIsFinal : Obligations.FaultIsFinal := by
  unfold Obligations.FaultIsFinal
  intro ms ms' s t f h
  rw [drive_append, h, RunEnd.bind]

/-! ### O38: what a fault reports -/

/-- 60_exceptions.md R170: a read's fault reports the pc and the word the read was given. -/
theorem memRead_fault_report {va : Word64} {word : Option Word32} {s : State} {f : Fault}
    (h : memRead va word s = .error f) : faultPc f = s.cpu.pc ∧ faultWord f = word := by
  rcases memRead_error_cases h with ⟨-, rfl⟩ | ⟨-, -, rfl⟩ | ⟨-, pa, e, -, -, rfl⟩
  · exact ⟨rfl, rfl⟩
  · exact ⟨rfl, rfl⟩
  · exact ⟨rfl, rfl⟩

/-- 60_exceptions.md R170: a handler's fault reports the pc and the instruction's own word. -/
theorem exec_fault_report {i : Instr} {s : State} {f : Fault} (h : exec i s = .fault f) :
    faultPc f = s.cpu.pc ∧ faultWord f = some (encode i) := by
  cases i with
  | ori rs rt imm => simp [exec_ori] at h
  | lui rs rt imm => simp [exec_lui] at h
  | mtc0 sub rt rd low =>
    rw [exec_mtc0] at h
    obtain ⟨e, -, rfl⟩ := writeCp0_fault_cases h
    exact ⟨rfl, rfl⟩
  | lw rs rt imm =>
    rw [exec_lw] at h
    exact memRead_fault_report (execLw_fault_cases h)

/-- 40_engine.md R116: the advance passes a fault on and makes none. -/
theorem advanceOutcome_eq_fault_iff {o : Host.Outcome State Fault Refusal} {f : Fault} :
    advanceOutcome o = .fault f ↔ o = .fault f := by
  cases o <;> simp [advanceOutcome]

/-- 60_exceptions.md R170: a failed fetch has no word to report. -/
theorem step_fault_report_of_unserved {s : State} {f : Fault} (hstep : step s = .fault f)
    (hunserved : ∀ r, ¬ ReadServed s s.cpu.pc r) : faultPc f = s.cpu.pc ∧ faultWord f = none := by
  cases hfetch : fetch s with
  | error g =>
    obtain rfl : g = f := Host.Outcome.fault.inj ((step_of_fetch_error hfetch).symm.trans hstep)
    exact memRead_fault_report hfetch
  | ok p =>
    obtain ⟨r, hserved, -⟩ := memRead_ok_served hfetch
    exact absurd hserved (hunserved r)

/-- 60_exceptions.md R170: after a served fetch, the decoder's fault and a handler's both report the
fetched word, the handler's since the accepted word is the instruction's own (`encodeOfDecode`). -/
theorem step_fault_report_of_served {s : State} {r : Word32} {f : Fault}
    (hstep : step s = .fault f) (hserved : ReadServed s s.cpu.pc r) :
    faultPc f = s.cpu.pc ∧ faultWord f = some (order s.params.wordOrder r) := by
  cases hdecode : decode (order s.params.wordOrder r) with
  | error e =>
    obtain rfl := decode_error_word hdecode
    have hfault := step_of_rejected hserved rfl hdecode
    obtain rfl := Host.Outcome.fault.inj (hstep.symm.trans hfault)
    exact ⟨rfl, rfl⟩
  | ok i =>
    rw [step_of_decoded hserved hdecode, advanceOutcome_eq_fault_iff] at hstep
    rw [← encodeOfDecode _ i hdecode, ← afterFetch_pc s]
    exact exec_fault_report hstep

/-- Settles O38: by whether the fetch was served. -/
theorem faultReportsPcAndWord : Obligations.FaultReportsPcAndWord := by
  unfold Obligations.FaultReportsPcAndWord
  intro s f hstep
  refine ⟨?_, fun r hserved => (step_fault_report_of_served hstep hserved).2,
    fun hunserved => (step_fault_report_of_unserved hstep hunserved).2⟩
  by_cases hserved : ∃ r, ReadServed s s.cpu.pc r
  · obtain ⟨r, hr⟩ := hserved
    exact (step_fault_report_of_served hstep hr).1
  · exact (step_fault_report_of_unserved hstep (not_exists.1 hserved)).1

end Sys2Proof.Machine

namespace Sys2Proof.Machine

/-! ### O36: when a step completes -/

/-- 10_state.md R43: Status decodes exactly from the words whose mode is not `11`. -/
theorem exists_decodeStatus_ok_iff {w : Word32} :
    (∃ st, decodeStatus w = .ok st) ↔ w.extractLsb' 3 2 ≠ 0b11#2 := by
  refine ⟨?_, decodeStatus_ok_of_ksu⟩
  rintro ⟨st, hst⟩ hksu
  exact nomatch hst.symm.trans (decodeStatus_of_ksu_three hksu)

/-- 10_state.md R37: Config decodes exactly from the words with one of the two patterns. -/
theorem exists_decodeConfig_ok_iff {w : Word32} :
    (∃ cf, decodeConfig w = .ok cf) ↔ w.extractLsb' 24 4 = 0#4 ∨ w.extractLsb' 24 4 = 6#4 := by
  refine ⟨?_, decodeConfig_ok_of_bits⟩
  rintro ⟨cf, hcf⟩
  by_contra hpattern
  obtain ⟨h0, h6⟩ := not_or.1 hpattern
  exact nomatch hcf.symm.trans (decodeConfig_of_not_pattern h0 h6)

/-- 10_state.md R46, R47: a bank write completes exactly when the index it names, if modelled,
decodes its data. -/
theorem exists_writeReg_ok_iff {c : Cp0} {rd : Cp0Idx} {v : Word32} :
    (∃ c', writeReg c rd v = .ok c') ↔ Cp0WriteValid rd v := by
  constructor
  · rintro ⟨c', h⟩
    rcases writeReg_ok_cases h with ⟨rfl, st, hst, -⟩ | ⟨rfl, cf, hcf, -⟩ | ⟨hst, hcf, -⟩
    · exact ⟨fun _ => exists_decodeStatus_ok_iff.1 ⟨st, hst⟩, fun hrd => absurd hrd (by decide)⟩
    · exact ⟨fun hrd => absurd hrd (by decide), fun _ => exists_decodeConfig_ok_iff.1 ⟨cf, hcf⟩⟩
    · exact ⟨fun hrd => absurd hrd hst, fun hrd => absurd hrd hcf⟩
  · rintro ⟨hksu, hpattern⟩
    by_cases hst : rd = statusIndex
    · obtain ⟨st, h⟩ := exists_decodeStatus_ok_iff.2 (hksu hst)
      exact ⟨_, hst ▸ writeReg_status h⟩
    by_cases hcf : rd = configIndex
    · obtain ⟨cf, h⟩ := exists_decodeConfig_ok_iff.2 (hpattern hcf)
      exact ⟨_, hcf ▸ writeReg_config h⟩
    · exact ⟨c, writeReg_unmodelled c v hst hcf⟩

/-- 70_reset_and_hazards.md R206, items 4 and 5: an execute phase completes exactly when a LW's read
is served and an MTC0's bank write decodes. -/
theorem exists_exec_next_iff {i : Instr} {s : State} :
    (∃ t, exec i s = .next t) ↔ InstrReady i s := by
  cases i with
  | ori rs rt imm => exact ⟨fun _ => trivial, fun _ => ⟨_, exec_ori rs rt imm s⟩⟩
  | lui rs rt imm => exact ⟨fun _ => trivial, fun _ => ⟨_, exec_lui rs rt imm s⟩⟩
  | mtc0 sub rt rd low =>
    rw [InstrReady, ← exists_writeReg_ok_iff (c := s.cpu.cp0)]
    constructor
    · rintro ⟨t, h⟩
      obtain ⟨c, hc, -⟩ := exec_mtc0_next_cases h
      exact ⟨c, hc⟩
    · rintro ⟨c, hc⟩
      exact ⟨_, exec_mtc0_of_ok sub low hc⟩
  | lw rs rt imm =>
    constructor
    · rintro ⟨t, h⟩
      obtain ⟨w, s1, hread, -⟩ := execLw_next_cases (exec_lw rs rt imm s ▸ h)
      obtain ⟨r, hserved, -⟩ := memRead_ok_served hread
      exact ⟨r, hserved⟩
    · rintro ⟨r, hserved⟩
      exact ⟨_, exec_lw_of_served rt hserved⟩

/-- Settles O36: a completed step had its fetch served, its word decoded and its handler completed,
and these three make a step complete. -/
theorem stepCompletesExactlyWhenReady : Obligations.StepCompletesExactlyWhenReady := by
  unfold Obligations.StepCompletesExactlyWhenReady
  intro s
  constructor
  · rintro ⟨t, h⟩
    obtain ⟨i, s1, t1, hfetch, hexec, -⟩ := step_next_cases h
    obtain ⟨r, hserved, hdecode, rfl⟩ := fetchInstr_ok_served hfetch
    exact ⟨r, i, hserved, hdecode, exists_exec_next_iff.1 ⟨t1, hexec⟩⟩
  · rintro ⟨r, i, hserved, hdecode, hready⟩
    obtain ⟨t, hexec⟩ := exists_exec_next_iff.2 hready
    exact ⟨advance t, by rw [step_of_decoded hserved hdecode, hexec, advanceOutcome]⟩

/-! ### O39, O40, O41: power-on reset -/

@[simp] theorem powerOnReset_pc (s : State) : (powerOnReset s).cpu.pc = bootVector := rfl

@[simp] theorem powerOnReset_cp0 (s : State) : (powerOnReset s).cpu.cp0 =
    { config := configReset s.params.resetK0ce, status := statusReset } := rfl

/-- 70_reset_and_hazards.md R201, decision D5: power-on reset writes no GPR, no unused register, no
parameter and nothing of the bus. -/
theorem powerOnReset_frame (s : State) :
    (powerOnReset s).cpu.gpr = s.cpu.gpr ∧ UnusedSame s (powerOnReset s) ∧
      (powerOnReset s).bus = s.bus :=
  ⟨rfl, unusedSame_refl s, rfl⟩

/-- 70_reset_and_hazards.md R204: every value reset writes is fixed by the parameters, which it
keeps. -/
theorem powerOnReset_idempotent (s : State) : powerOnReset (powerOnReset s) = powerOnReset s := rfl

/-- 10_state.md R43, decision D3: the reset value of Status is the decode of 0. -/
theorem decodeStatus_zero : decodeStatus 0#32 = .ok statusReset := rfl

/-- Settles O39: the writes, then the frame, then idempotence. -/
theorem powerOnResetWrites : Obligations.PowerOnResetWrites := by
  unfold Obligations.PowerOnResetWrites
  intro s
  obtain ⟨hgpr, hunused, hbus⟩ := powerOnReset_frame s
  rw [powerOnReset_pc, powerOnReset_cp0]
  exact ⟨rfl, rfl, decodeStatus_zero, hgpr, hunused, hbus, powerOnReset_idempotent s⟩

/-- 70_reset_and_hazards.md R200: reset is power-on reset of the machine just created. -/
theorem resetWith_eq_powerOnReset (p : Params) :
    State.resetWith p = powerOnReset (State.create p) := rfl

/-- 10_state.md R51: every GPR is created as 0. -/
@[simp] theorem readGpr_create (p : Params) (i : GprIdx) : readGpr (State.create p) i = 0#64 := by
  unfold readGpr
  split
  case isTrue => rfl
  case isFalse => exact Vector.getElem_replicate i.isLt

/-- 10_state.md R51: every FPR is created as the pattern 0. -/
theorem create_fpr (p : Params) (i : Fin 32) : (State.create p).cpu.fpr[i] = 0#64 :=
  Vector.getElem_replicate i.isLt

/-- Settles O40: the two register files cell by cell, and each other field at its creation value. -/
theorem resetIsCreationThenPowerOn : Obligations.ResetIsCreationThenPowerOn := by
  unfold Obligations.ResetIsCreationThenPowerOn
  intro p
  exact ⟨resetWith_eq_powerOnReset p, readGpr_create p, create_fpr p, rfl, rfl, rfl, rfl, rfl, rfl,
    decodeStatus_zero, rfl, rfl⟩

theorem bootVector_aligned : aligned bootVector = true := by decide

/-- 20_memory.md R65: the boot vector lies in kseg1, `0x1FC0_0000` above the segment's base. -/
theorem translateAddr_bootVector : translateAddr bootVector = some 0x1FC00000#32 :=
  translateAddr_eq_some_iff.2 ⟨by decide, by decide⟩

/-- Settles O41: the pc is the boot vector, whatever the state was. -/
theorem bootVectorFetchAddress : Obligations.BootVectorFetchAddress := by
  unfold Obligations.BootVectorFetchAddress
  intro s
  rw [powerOnReset_pc]
  exact ⟨bootVector_aligned, translateAddr_bootVector⟩

end Sys2Proof.Machine

namespace Sys2Proof.Machine

/-! ### O46: every GPR is the sign extension of its low 32 bits -/

theorem setWidth_signExtend (w : Word32) : (w.signExtend 64).setWidth 32 = w := by
  refine BitVec.eq_of_getLsbD_eq fun k hk => ?_
  rw [BitVec.getLsbD_setWidth, BitVec.getLsbD_signExtend]
  simp [hk, show k < 64 by omega]

/-- The invariant names no word of its own: some word's sign extension is enough. -/
theorem gprsSignExtended_iff {s : State} :
    GprsSignExtended s ↔ ∀ i, ∃ w : Word32, readGpr s i = w.signExtend 64 := by
  refine ⟨fun h i => ⟨_, h i⟩, fun h i => ?_⟩
  obtain ⟨w, hw⟩ := h i
  rw [hw, setWidth_signExtend]

/-- A sign-extended word may be written to any register, 0 included. -/
theorem gprsSignExtended_writeGpr {s : State} (h : GprsSignExtended s) (rt : GprIdx) (w : Word32) :
    GprsSignExtended (writeGpr s rt (w.signExtend 64)) := by
  rw [gprsSignExtended_iff] at h ⊢
  intro j
  by_cases hrt : rt = 0
  · rw [writeGpr_eq_self hrt]
    exact h j
  · by_cases hj : j = rt
    · exact ⟨w, hj ▸ readGpr_writeGpr_self s rt _ hrt⟩
    · rw [readGpr_writeGpr_ne s rt j _ hj]
      exact h j

/-- 30_encoding.md R94: a zero-extended 16-bit immediate is a sign-extended word. -/
theorem oriImmediate_eq_signExtend (imm : BitVec 16) :
    oriImmediate imm = (imm.setWidth 32).signExtend 64 := by
  have hmsb : (imm.setWidth 32).msb = false := by simp [BitVec.msb_eq_getLsbD_last]
  rw [oriImmediate_eq, BitVec.signExtend_eq_setWidth_of_msb_false hmsb,
    BitVec.setWidth_setWidth (by decide)]

/-- Every handler that writes a GPR writes a sign-extended word: ORI the OR of two such words. -/
theorem gprsSignExtended_exec {i : Instr} {s t : State} (hs : GprsSignExtended s)
    (h : exec i s = .next t) : GprsSignExtended t := by
  cases i with
  | ori rs rt imm =>
    obtain ⟨w, hw⟩ := gprsSignExtended_iff.1 hs rs
    rw [exec_ori, Host.Outcome.next.injEq, hw, oriImmediate_eq_signExtend,
      ← BitVec.signExtend_or] at h
    exact h ▸ gprsSignExtended_writeGpr hs rt _
  | lui rsIgnored rt imm =>
    rw [exec_lui, Host.Outcome.next.injEq, luiImmediate_eq] at h
    exact h ▸ gprsSignExtended_writeGpr hs rt _
  | mtc0 sub rt rd low =>
    obtain ⟨c, -, rfl⟩ := exec_mtc0_next_cases h
    exact hs
  | lw rs rt imm =>
    obtain ⟨r, s1, hread, rfl⟩ := execLw_next_cases h
    obtain ⟨pa, -, -, -, -, -, rfl⟩ := memRead_ok_cases hread
    have hs1 : GprsSignExtended (setBus s (busAfterRead s.bus pa)) := hs
    exact gprsSignExtended_writeGpr hs1 rt r

/-- Settles O46: fetch and advance leave the GPRs, and every handler keeps the invariant. -/
theorem stepKeepsGprsSignExtended : Obligations.StepKeepsGprsSignExtended := by
  unfold Obligations.StepKeepsGprsSignExtended
  intro s t hs h
  obtain ⟨i, s1, t1, hfetch, hexec, rfl⟩ := step_next_cases h
  have hs1 : GprsSignExtended s1 :=
    fetchInstr_preserves (P := GprsSignExtended) (fun _ _ _ _ _ hu => hu) hs hfetch
  have ht1 : GprsSignExtended t1 := gprsSignExtended_exec hs1 hexec
  exact ht1

/-! ### O45: the invariant at reset -/

/-- Settles O45: reset leaves the GPRs at their creation value 0, the sign extension of 0. -/
theorem resetGprsSignExtended : Obligations.ResetGprsSignExtended := by
  unfold Obligations.ResetGprsSignExtended
  intro p
  exact gprsSignExtended_iff.2 fun i => ⟨0#32, readGpr_create p i⟩

/-! ### O47: the addresses a sign-extended base reaches -/

/-- A sign-extended word lies within `2^31` of 0, modulo `2^64`. -/
theorem toNat_signExtend_lt_or_ge (w : Word32) :
    (w.signExtend 64).toNat < 2 ^ 31 ∨ 2 ^ 64 - 2 ^ 31 ≤ (w.signExtend 64).toNat := by
  have hlt : w.toNat < 2 ^ 32 := w.isLt
  rw [BitVec.toNat_signExtend, BitVec.toNat_setWidth_of_le (by decide), BitVec.msb_eq_decide]
  simp only [decide_eq_true_eq]
  split <;> omega

/-- 43_load.md R150: a sign-extended base and a 16-bit offset reach no address farther than
`2^31 + 2^16` from 0. -/
theorem toNat_effectiveAddress_lt_or_ge {s : State} (hs : GprsSignExtended s) (rs : GprIdx)
    (imm : BitVec 16) : (effectiveAddress s rs imm).toNat < 2 ^ 31 + 2 ^ 16 ∨
      2 ^ 64 - 2 ^ 31 - 2 ^ 16 ≤ (effectiveAddress s rs imm).toNat := by
  obtain ⟨w, hw⟩ := gprsSignExtended_iff.1 hs rs
  have hbase := toNat_signExtend_lt_or_ge w
  have hlt := (w.signExtend 64).isLt
  have himm : imm.toNat < 2 ^ 16 := imm.isLt
  rw [effectiveAddress, hw, BitVec.toNat_add, toNat_lwOffset]
  split <;> omega

/-- The selector `101` bounds the low 32 bits of an address (20_memory.md R64). -/
theorem toNat_mod_of_segmentSelector {va : Word64} (h : segmentSelector va = 0b101#3) :
    0xA0000000 ≤ va.toNat % 2 ^ 32 ∧ va.toNat % 2 ^ 32 ≤ 0xBFFFFFFF := by
  have hsel := congrArg BitVec.toNat h
  simp only [segmentSelector, BitVec.extractLsb'_toNat, BitVec.toNat_ofNat,
    Nat.shiftRight_eq_div_pow] at hsel
  omega

/-- Settles O47: the address is within `2^31 + 2^16` of 0, and there only the addresses of kseg1
have the selector `101`. -/
theorem signExtendedBaseNeverMeetsConflictC1 : Obligations.SignExtendedBaseNeverMeetsConflictC1 := by
  unfold Obligations.SignExtendedBaseNeverMeetsConflictC1
  intro s rs imm hs hsel
  have hlow := toNat_mod_of_segmentSelector hsel
  have hnear := toNat_effectiveAddress_lt_or_ge hs rs imm
  have hva := (effectiveAddress s rs imm).isLt
  rw [InKseg1]
  omega

/-! ### O11: the bank write -/

/-- Settles O11: 12 is the index of Status and 16 that of Config (decision D1), and each write or
failure is the selected decode's. -/
theorem bankWriteReplacesOneRegister : Obligations.BankWriteReplacesOneRegister := by
  unfold Obligations.BankWriteReplacesOneRegister
  intro c index data
  refine ⟨?_, ?_, writeReg_unmodelled c data⟩
  · rintro rfl
    exact ⟨fun _ => writeReg_status, fun _ => writeReg_status_of_error c⟩
  · rintro rfl
    exact ⟨fun _ => writeReg_config, fun _ => writeReg_config_of_error c⟩

end Sys2Proof.Machine
